-- ==== Sys2Proof/Word.lean ====
section
/-! DEFINITION. The data words of the Register Codec: bytes, 16-bit values, the 2-byte payload and the 3-byte
frame (spec 00_scope.md R9, R11; 30_encoding.md R43). -/

namespace Sys2Proof

/-- A byte is 8 bits (R9). -/
abbrev Byte := BitVec 8

/-- A register's 16-bit value (R7 `SIZE_BITS`). -/
abbrev Word16 := BitVec 16

/-- A payload `[p0, p1]` in the register's storage order (R11). -/
structure Payload where
  p0 : Byte
  p1 : Byte
deriving DecidableEq, Repr

/-- A frame `[f0, f1, f2]` of exactly 3 bytes, `f0` first on the wire (R43). -/
structure Frame where
  f0 : Byte
  f1 : Byte
  f2 : Byte
deriving DecidableEq, Repr

end Sys2Proof
end

