-- ==== Sys2Proof/Config.lean ====
section
/-! DEFINITION. What is fixed before the first operation (the register descriptors, spec 10_state.md R17 to R19,
and the open parameters of 00_scope.md R8) and the free values (opaque, without a body) for what the spec calls
a draw. -/

namespace Sys2Proof

/-- `ORDER`: DIRECT (variant A) or SWAPPED (variant B) (R12, R15). -/
inductive WireOrder where
  | direct
  | swapped
deriving DecidableEq, Repr

/-- `VORD`: how a payload's bytes form its value (R11, R15). -/
inductive ValueOrder where
  | little
  | big
deriving DecidableEq, Repr

/-- `ACCESS` (R17). -/
inductive Access where
  | readOnly
  | readWrite
deriving DecidableEq, Repr

/-- The type of a bitfield (R18). -/
inductive FieldKind where
  | bool
  | unsigned
deriving DecidableEq, Repr

/-- A bitfield descriptor: name, inclusive bit range `[lo, hi]` and type (R18). -/
structure FieldDesc where
  name : String
  lo   : Nat
  hi   : Nat
  kind : FieldKind
deriving DecidableEq, Repr

/-- A register descriptor (R17). -/
structure RegDesc where
  address    : Byte
  sizeBits   : Nat
  access     : Access
  resetValue : Payload
  byteOrder  : ValueOrder
  wireOrder  : WireOrder
  fields     : List FieldDesc
deriving DecidableEq, Repr

/-- `REGMAP` (R14, R17). -/
abbrev Regmap := List RegDesc

/-- The checks of a well-formed `REGMAP` (R19), by name. -/
inductive RegmapCheck where
  | addressRange
  | addressUnique
  | sizeBits
  | fieldRange
  | fieldKind
  | fieldOverlap
  | fieldNameUnique
deriving DecidableEq, Repr

/-- `UNSET_FIELD_DEFAULT` (R64, D32). -/
inductive UnsetDefault where
  | resetValue
  | zero
deriving DecidableEq, Repr

/-- A finite binary32 number: sign, biased exponent 0..254, fraction (R76). -/
structure Finite32 where
  neg  : Bool
  exp  : Fin 255
  frac : BitVec 23
deriving DecidableEq, Repr

/-- `TEMP_ARITH` (R76, D14): the evaluation of R76 with its two constants as data (I11), or some other
evaluation, of which nothing is known. -/
inductive TempArith where
  | binary32 (slope offset : Finite32)
  | other
deriving DecidableEq, Repr

/-- The configuration the host is driven by (R8, R14): no operation and no reset changes it (R26, R31). -/
structure HostConfig where
  regmap       : Regmap
  unsetDefault : UnsetDefault
  tempArith    : TempArith
  /-- The register `RESET` writes (R74), data by I11. -/
  controlAddr  : Byte
  /-- The register `RDTEMP` reads (R75), data by I11. -/
  sensorAddr   : Byte
deriving DecidableEq, Repr

/-- FREE VALUE (R36, D18): the three response bytes of the n-th draw. Log entry 5. -/
opaque Config.freeResponse : Nat → BitVec 24

/-- FREE VALUE (R83): whether the n-th transaction fails, and with which transport error. Log entry 5. -/
opaque Config.freeFailure : Nat → Option Nat

/-- FREE VALUE (R22, D24): what a byte of the device's register space holds when nothing is known of it.
Log entry 7. -/
opaque Config.freeCellByte : Nat → BitVec 8

/-- FREE VALUE (R76, D14): the binary32 pattern another `TEMP_ARITH` gives for a raw value. Log entry 9. -/
opaque Config.freeTemperature : BitVec 16 → BitVec 32

end Sys2Proof
end

