-- ==== Sys2Proof/Syntax.lean ====
section
/-! DEFINITION. The instructions: one constructor of `Instr` per row of spec/opcode_table.json; the block's input
ports (10_state.md R15); the pseudo-instructions (30_encoding.md R54); the host's operations
(45_register_access.md). -/

namespace Sys2Proof

/-- One row of spec/opcode_table.json each, with the operands the row names (R48, R44). -/
inductive Instr where
  /-- `ENC_WR`: encode a write command frame (R55). -/
  | encWr (addr : Byte) (payload : Payload) (order : WireOrder)
  /-- `ENC_RD`: encode a read command frame (R56). -/
  | encRd (addr : Byte)
  /-- `DEC_RD`: decode a read response frame (R58). -/
  | decRd (response : Frame) (order : WireOrder)
  /-- `BF_EXT`: extract a bitfield (R60). -/
  | bfExt (payload : Payload) (vord : ValueOrder) (lo hi : BitVec 4)
  /-- `BF_INS`: insert a field value (R61). -/
  | bfIns (payload : Payload) (vord : ValueOrder) (lo hi : BitVec 4) (fval : Word16)
  /-- `RESERVED_101` (R51). -/
  | reserved101
  /-- `RESERVED_110` (R51). -/
  | reserved110
  /-- `RESERVED_111` (R51). -/
  | reserved111
  /-- `WRITE_FRAME`: a write command frame on the wire, sent by `XWrite` (R44). -/
  | writeFrame (reg : BitVec 7) (d1 d2 : Byte)
  /-- `READ_FRAME`: a read command frame on the wire, sent by `XTransfer` (R44). The block always sends zero
  data bytes (well-formed); a device accepts any (R44), so the bytes are kept. -/
  | readFrame (reg : BitVec 7) (d1 d2 : Byte)
  /-- `READ_RESPONSE`: a response frame from the device, consumed by `DEC_RD` (R44). -/
  | readResponse (b0 d1 d2 : Byte)
deriving DecidableEq, Repr

/-- The record of the block's input ports: one operation is presented as one such record (R15). -/
structure Ports where
  op    : BitVec 3
  addr  : Byte
  payIn : Payload
  order : BitVec 1
  vord  : BitVec 1
  rspIn : Frame
  lo    : BitVec 4
  hi    : BitVec 4
  fval  : Word16
deriving DecidableEq, Repr

/-- An instruction as the hardware meets it: an operation request on the ports (R47), the bytes of a command frame
handed to the transport, or the bytes of a response frame that came back (R43). -/
inductive Encoded where
  | ports (q : Ports)
  | command (bytes : List Byte)
  | response (bytes : List Byte)
deriving DecidableEq, Repr

/-- The pseudo-instructions (R54). -/
inductive Pseudo where
  | value (p : Payload) (vord : ValueOrder)
  | getb (p : Payload) (vord : ValueOrder) (n : BitVec 4)
  | setb (p : Payload) (vord : ValueOrder) (n : BitVec 4)
  | clrb (p : Payload) (vord : ValueOrder) (n : BitVec 4)
  | pack (v : Word16) (vord : ValueOrder)
deriving DecidableEq, Repr

/-- One setting of a field-level write (R64): a bool is 1 or 0 (R62). -/
structure Setting where
  field : String
  value : Word16
deriving DecidableEq, Repr

/-- The host's operations (R5, R53, R67 to R75). Handles are opaque identities, held as numbers. -/
inductive HostCall where
  | new (transport pin : Nat)
  | destroy
  | writeRaw (addr : Byte) (p : Payload)
  | writeFields (addr : Byte) (settings : List Setting)
  | readReg (addr : Byte)
  | readField (addr : Byte) (field : String)
  | reset
  | readTemp
  /-- The bare primitive `XWRITE` (R10, R53). -/
  | xwrite (f : Frame)
  /-- The bare primitive `XFER` (R10, R53). -/
  | xfer (f : Frame)
deriving DecidableEq, Repr

/-- What the host presents next: an instruction or one of its own operations (R66). -/
inductive Presented where
  | instr (e : Encoded)
  | call (c : HostCall)
deriving DecidableEq, Repr

end Sys2Proof
end

