-- ==== Sys2Proof/WellFormed.lean ====
section
/-! DEFINITION. Which instructions are well formed: those whose words match their row of spec/opcode_table.json.
Port and field widths are in the types (10_state.md R15), so one row alone needs a check. The well-formedness of a
`REGMAP` (R19) is in Machine/Regmap.lean. -/

namespace Sys2Proof

/-- An instruction matches its row of the table. `READ_FRAME`'s row fixes both data bytes to zero, which is what
the block drives (R44, R56); every operand of the other rows may take every value of its width (R49, R51). -/
def Instr.wellFormed : Instr → Bool
  | .encWr _ _ _ => true
  | .encRd _ => true
  | .decRd _ _ => true
  | .bfExt _ _ _ _ => true
  | .bfIns _ _ _ _ _ => true
  | .reserved101 => true
  | .reserved110 => true
  | .reserved111 => true
  | .writeFrame _ _ _ => true
  | .readFrame _ d1 d2 => d1 == 0 && d2 == 0
  | .readResponse _ _ _ => true

end Sys2Proof
end

