-- ==== Sys2Proof/Decode.lean ====
section
/-! DEFINITION. Decoding (30_encoding.md R43 to R52): a request on the ports, a command frame, a response frame;
the encoder written from the same tables; the reading of spec/opcode_table.json's own bit numbering; the expansion
of pseudo-instructions (R54). -/

namespace Sys2Proof

/-- Why bytes are no instruction: every frame is exactly 3 bytes (R43, R52). -/
inductive DecodeError where
  | frameLength (n : Nat)
deriving DecidableEq, Repr

/-- What decoding answers. -/
inductive Decoded where
  | instr (i : Instr)
  | rejected (e : DecodeError)
deriving DecidableEq, Repr

/-- `ORDER` is 0 = DIRECT, 1 = SWAPPED (R49). -/
def decodeOrder (b : BitVec 1) : WireOrder := if b = 0#1 then .direct else .swapped

/-- `VORD` is 0 = LittleEndian, 1 = BigEndian (R49). -/
def decodeVord (b : BitVec 1) : ValueOrder := if b = 0#1 then .little else .big

def encodeOrder : WireOrder → BitVec 1
  | .direct => 0#1
  | .swapped => 1#1

def encodeVord : ValueOrder → BitVec 1
  | .little => 0#1
  | .big => 1#1

/-- The operation select and the operand ports each operation reads (R48). -/
def decodePorts (q : Ports) : Instr :=
  if q.op = 0b000#3 then .encWr q.addr q.payIn (decodeOrder q.order)
  else if q.op = 0b001#3 then .encRd q.addr
  else if q.op = 0b010#3 then .decRd q.rspIn (decodeOrder q.order)
  else if q.op = 0b011#3 then .bfExt q.payIn (decodeVord q.vord) q.lo q.hi
  else if q.op = 0b100#3 then .bfIns q.payIn (decodeVord q.vord) q.lo q.hi q.fval
  else if q.op = 0b101#3 then .reserved101
  else if q.op = 0b110#3 then .reserved110
  else .reserved111

/-- A command frame: `RW` (bit 7 of `f0`) alone tells a read from a write, the address is `f0[6:0]`
(R43, R44, R45). Every 24-bit pattern is a command (R51). -/
def decodeCommand (f : Frame) : Instr :=
  if f.f0.getLsbD 7 then .readFrame (f.f0.extractLsb' 0 7) f.f1 f.f2
  else .writeFrame (f.f0.extractLsb' 0 7) f.f1 f.f2

/-- A frame is exactly 3 bytes (R43). -/
def frameOfBytes : List Byte → Option Frame
  | [b0, b1, b2] => some ⟨b0, b1, b2⟩
  | _ => none

/-- Total on everything that can be presented; a byte string of another length than 3 is rejected by name. -/
def decode : Encoded → Decoded
  | .ports q => .instr (decodePorts q)
  | .command bytes =>
    match frameOfBytes bytes with
    | some f => .instr (decodeCommand f)
    | none => .rejected (.frameLength bytes.length)
  | .response bytes =>
    match frameOfBytes bytes with
    | some f => .instr (.readResponse f.f0 f.f1 f.f2)
    | none => .rejected (.frameLength bytes.length)

/-- The ports of an operation whose operand ports are all 0. -/
def portsOfOp (op : BitVec 3) : Ports := ⟨op, 0, ⟨0, 0⟩, 0, 0, ⟨0, 0, 0⟩, 0, 0, 0⟩

/-- `f0` of a command frame: `RW` above the 7-bit address (R43). -/
def commandByte0 (rw : BitVec 1) (reg : BitVec 7) : Byte := rw ++ reg

/-- The words of an instruction; a port the operation does not read is 0. -/
def encode : Instr → Encoded
  | .encWr a p o => .ports { portsOfOp 0b000#3 with addr := a, payIn := p, order := encodeOrder o }
  | .encRd a => .ports { portsOfOp 0b001#3 with addr := a }
  | .decRd r o => .ports { portsOfOp 0b010#3 with rspIn := r, order := encodeOrder o }
  | .bfExt p v lo hi => .ports { portsOfOp 0b011#3 with payIn := p, vord := encodeVord v, lo := lo, hi := hi }
  | .bfIns p v lo hi x =>
    .ports { portsOfOp 0b100#3 with payIn := p, vord := encodeVord v, lo := lo, hi := hi, fval := x }
  | .reserved101 => .ports (portsOfOp 0b101#3)
  | .reserved110 => .ports (portsOfOp 0b110#3)
  | .reserved111 => .ports (portsOfOp 0b111#3)
  | .writeFrame a d e => .command [commandByte0 0#1 a, d, e]
  | .readFrame a d e => .command [commandByte0 1#1 a, d, e]
  | .readResponse x d e => .response [x, d, e]

/-- The 24-bit word `W = cat(f0, cat(f1, f2))` of a frame (R43). -/
def frameWord (f : Frame) : BitVec 24 := f.f0 ++ f.f1 ++ f.f2

/-- The frame of a 24-bit word: `f0 = W[23:16]`, `f1 = W[15:8]`, `f2 = W[7:0]` (R43). -/
def frameOfWord (w : BitVec 24) : Frame :=
  ⟨w.extractLsb' 16 8, w.extractLsb' 8 8, w.extractLsb' 0 8⟩

/-- A 24-bit word matches `WRITE_FRAME`'s row or `READ_FRAME`'s row (R44: match and mask). -/
def matchesCommandRow (w : BitVec 24) : Bool :=
  w &&& 0x800000#24 == 0x000000#24 || w &&& 0x80FFFF#24 == 0x800000#24

/-- What spec/opcode_table.json's number `w` of `nbits` bits stands for: an operation row (one byte, its 3 bits `OP`,
the operand ports 0) or a frame row (24 bits, the word of R43). A frame word that a command row matches is a
command; one that only `READ_RESPONSE`'s row (mask 0) matches is a response (log entry 4). Any other number is
given as a byte string of a wrong length, which `decode` rejects. -/
def encodedOfTableWord (nbits w : Nat) : Encoded :=
  if nbits ≤ 8 ∧ w < 8 then .ports (portsOfOp (BitVec.ofNat 3 w))
  else if nbits = 24 ∧ w < 2 ^ 24 then
    let f := frameOfWord (BitVec.ofNat 24 w)
    if matchesCommandRow (BitVec.ofNat 24 w) then .command [f.f0, f.f1, f.f2] else .response [f.f0, f.f1, f.f2]
  else .command []

/-- The instruction the decoder reads from the table's number `w` of `nbits` bits. -/
def decodeTableWord (nbits w : Nat) : Option Instr :=
  match decode (encodedOfTableWord nbits w) with
  | .instr i => some i
  | .rejected _ => none

/-- The expansions of the pseudo-instructions (R54). -/
def expandPseudo : Pseudo → Instr
  | .value p o => .bfExt p o 0 15
  | .getb p o n => .bfExt p o n n
  | .setb p o n => .bfIns p o n n 1
  | .clrb p o n => .bfIns p o n n 0
  | .pack v o => .bfIns ⟨0, 0⟩ o 0 15 v

end Sys2Proof
end

