-- ==== Sys2Proof/Machine/Binary32.lean ====
section
/-! DEFINITION. The temperature's arithmetic (45_register_access.md R76): binary32, round to nearest even, one
rounding per operation. A magnitude is the natural number of steps of 2^-149, so every finite binary32 number is
exact and only rounding needs a rule. -/

namespace Sys2Proof.Machine

/-- A rounded binary32 value: a sign and a magnitude in steps of 2^-149, or an infinity. -/
inductive Float32Value where
  | fin (neg : Bool) (mag : Nat)
  | inf (neg : Bool)
deriving DecidableEq, Repr

/-- The magnitude of a finite binary32 number in steps of 2^-149. -/
def finiteMag (x : Finite32) : Nat :=
  if x.exp.val = 0 then x.frac.toNat else (2 ^ 23 + x.frac.toNat) <<< (x.exp.val - 1)

/-- The bits beyond 24 that a magnitude has: what rounding takes off. -/
def excessBits (mag : Nat) : Nat := Nat.log2 mag + 1 - 24

/-- A magnitude rounded to 24 significant bits, ties to even. -/
def roundMag (mag : Nat) : Nat :=
  let k := excessBits mag
  if k = 0 then mag
  else
    let q := mag >>> k
    let rest := mag % 2 ^ k
    let half := 2 ^ (k - 1)
    if half < rest ∨ (rest = half ∧ q % 2 = 1) then (q + 1) <<< k else q <<< k

/-- `round32` of a signed exact value; 2^128 and above is infinite (R76). -/
def round32 (neg : Bool) (mag : Nat) : Float32Value :=
  if roundMag mag < 2 ^ 128 * 2 ^ 149 then .fin neg (roundMag mag) else .inf neg

/-- `round32(C * r)` for a natural number `r` (R76: `r` is exact, and +0 for 0). -/
def mul32 (c : Finite32) (r : Nat) : Float32Value := round32 c.neg (finiteMag c * r)

/-- The exact difference of two signed magnitudes, as sign and magnitude. Equal operands of one sign give +0;
operands of two signs add their magnitudes under the first one's sign. -/
def exactSub (xneg : Bool) (x : Nat) (yneg : Bool) (y : Nat) : Bool × Nat :=
  if xneg = yneg then
    if y < x then (xneg, x - y)
    else if x < y then (!xneg, y - x)
    else (false, 0)
  else (xneg, x + y)

/-- `round32(m - K)` (R76). -/
def sub32 (m : Float32Value) (k : Finite32) : Float32Value :=
  match m with
  | .inf neg => .inf neg
  | .fin neg mag => round32 (exactSub neg mag k.neg (finiteMag k)).1 (exactSub neg mag k.neg (finiteMag k)).2

/-- The 32-bit pattern of a rounded value. -/
def encode32 : Float32Value → BitVec 32
  | .inf neg => BitVec.ofBool neg ++ 0xFF#8 ++ 0#23
  | .fin neg mag =>
    if mag < 2 ^ 23 then BitVec.ofBool neg ++ 0#8 ++ BitVec.ofNat 23 mag
    else
      let k := Nat.log2 mag - 23
      BitVec.ofBool neg ++ BitVec.ofNat 8 (k + 1) ++ BitVec.ofNat 23 (mag >>> k)

/-- R76's evaluation with constants `c` and `k`, before encoding. -/
def tempValue (c k : Finite32) (raw : Nat) : Float32Value := sub32 (mul32 c raw) k

/-- The transfer function `temp(raw)` as a binary32 pattern (R76). -/
def temp (arith : TempArith) (raw : Word16) : BitVec 32 :=
  match arith with
  | .binary32 c k => encode32 (tempValue c k raw.toNat)
  | .other => Config.freeTemperature raw

/-- The constant `C`, pattern 0x3F59999A (R76). -/
def tempSlope : Finite32 := ⟨false, 126, 0x59999A#23⟩

/-- The constant `K` = 415.0, pattern 0x43CF8000 (R76). -/
def tempOffset : Finite32 := ⟨false, 135, 0x4F8000#23⟩

end Sys2Proof.Machine
end

