-- ==== Sys2Proof/Machine/Regmap.lean ====
section
/-! DEFINITION. The register descriptor table: when it is well formed (10_state.md R18, R19), looking a register or
a field up in it, and the example map (R20, R21). -/

namespace Sys2Proof.Machine

/-- `0 <= lo <= hi <= 15` (R18). -/
def fieldRangeOk (f : FieldDesc) : Bool := decide (f.lo ≤ f.hi) && decide (f.hi ≤ 15)

/-- `lo = hi` is a bool, `hi > lo` an unsigned integer (R18). -/
def fieldKindOk (f : FieldDesc) : Bool :=
  match f.kind with
  | .bool => decide (f.lo = f.hi)
  | .unsigned => decide (f.lo < f.hi)

/-- Two fields share no bit (R18). -/
abbrev fieldsApart (f g : FieldDesc) : Prop := f.hi < g.lo ∨ g.hi < f.lo

/-- The first check of R19 that fails, if one does. -/
def regmapProblem (m : Regmap) : Option RegmapCheck :=
  if ¬ m.all (fun r => decide (r.address.toNat ≤ 127)) then some .addressRange
  else if ¬ (m.map RegDesc.address).Nodup then some .addressUnique
  else if ¬ m.all (fun r => decide (r.sizeBits = 16)) then some .sizeBits
  else if ¬ m.all (fun r => r.fields.all fieldRangeOk) then some .fieldRange
  else if ¬ m.all (fun r => r.fields.all fieldKindOk) then some .fieldKind
  else if ¬ m.all (fun r => decide (r.fields.Pairwise fieldsApart)) then some .fieldOverlap
  else if ¬ m.all (fun r => decide (r.fields.map FieldDesc.name).Nodup) then some .fieldNameUnique
  else none

/-- A well-formed `REGMAP` (R19). -/
abbrev RegmapWf (m : Regmap) : Prop := regmapProblem m = none

/-- `REGMAP[addr]` (R70, R72). -/
def findReg : Regmap → Byte → Option RegDesc
  | [], _ => none
  | r :: m, a => if r.address = a then some r else findReg m a

/-- A register's field of a name. -/
def findField : List FieldDesc → String → Option FieldDesc
  | [], _ => none
  | f :: fs, n => if f.name = n then some f else findField fs n

/-- The width `hi - lo + 1` of a field (R18). -/
def fieldWidth (f : FieldDesc) : Nat := f.hi - f.lo + 1

/-- The control register, with its wire order `REG0_ORDER` (R20, D8). -/
def controlRegister (reg0Order : WireOrder) : RegDesc where
  address := 0
  sizeBits := 16
  access := .readWrite
  resetValue := ⟨0x70, 0x40⟩
  byteOrder := .little
  wireOrder := reg0Order
  fields := [⟨"foo", 6, 6, .bool⟩, ⟨"bar", 4, 4, .bool⟩, ⟨"reset", 1, 1, .bool⟩, ⟨"powerdown", 0, 0, .bool⟩]

/-- The sensor register (R21). -/
def sensorRegister : RegDesc where
  address := 76
  sizeBits := 16
  access := .readOnly
  resetValue := ⟨0x00, 0x00⟩
  byteOrder := .big
  wireOrder := .direct
  fields := [⟨"rb_temp_sens", 0, 10, .unsigned⟩]

/-- The example register map (R20, R21). -/
def exampleRegmap (reg0Order : WireOrder) : Regmap := [controlRegister reg0Order, sensorRegister]

end Sys2Proof.Machine
end

