-- ==== Sys2Proof/Machine/State.lean ====
section
/-! DEFINITION. The machine's state as plain data. The block has none (10_state.md R13); what is held is the
operation presented, its outputs, the configuration, the host (R23), the record of transactions (20_memory.md R38),
the device's registers (R22) and what is assumed of the device (R36, 92_eei_decisions.md D19). -/

namespace Sys2Proof.Machine

/-- `ERR` with the information recorded (R16, R79). -/
inductive BlockErr where
  | ok
  | illegalOp (op : BitVec 3)
  | bfRange (lo hi : BitVec 4)
  | bfValue (fval : Word16) (width : Nat)
deriving DecidableEq, Repr

/-- The output ports; a port the operation does not drive holds no value (R16). -/
structure Outputs where
  frameOut : Option Frame
  payOut   : Option Payload
  fieldOut : Option Word16
  err      : Option BlockErr
deriving DecidableEq, Repr

/-- No output is driven: no operation is presented (R26). -/
abbrev Outputs.undriven : Outputs := ⟨none, none, none, none⟩

/-- The names of the data outputs (R16). -/
inductive OutPort where
  | frameOut
  | payOut
  | fieldOut
deriving DecidableEq, Repr

/-- The host's lifecycle (R23, R26): no handle until `NEW`; the handles are opaque identities. -/
inductive Lifecycle where
  | noHandle
  | live (transport pin : Nat)
  | destroyed
deriving DecidableEq, Repr

/-- `XWrite` or `XTransfer` (R10). -/
inductive TxKind where
  | write
  | transfer
deriving DecidableEq, Repr

/-- How a transaction ended: sent (a write captures nothing, R70), a response received, or a transport error
(an opaque identity, surfaced verbatim, R83). -/
inductive Answer where
  | sent
  | received (r : Frame)
  | failed (e : Nat)
deriving DecidableEq, Repr

/-- One transaction issued on the bus (R38). -/
structure Transaction where
  kind   : TxKind
  frame  : Frame
  answer : Answer
deriving DecidableEq, Repr

/-- One line of the fixture SCRIPT (D19). -/
inductive ScriptLine where
  | succeed
  | respond (r : Frame)
  | fail (e : Nat)
  | never
deriving DecidableEq, Repr

/-- What is assumed of the transport and the device behind it: nothing (every answer a draw, R36), or one of the
fixtures of D19. -/
inductive Device where
  | unknown
  | echo
  | script (lines : List ScriptLine)
deriving DecidableEq, Repr

/-- The device's register space: (cell, byte) pairs, cells rising, cell `2 * register + k` for wire byte `k`.
What is not listed has no known value (R22). -/
abbrev Memory := List Host.Cell

/-- The rest of a host operation that has issued a transaction and has another to issue. A transaction is one step of
the host (R106), so `RESET` alone, with its two (R74), is ever between steps. -/
inductive ActiveCall where
  /-- `RESET` has sent its first write and has the second to issue (R74). -/
  | resetSecondWrite
deriving DecidableEq, Repr

/-- What a host operation ended with (R78). `digitalError` exists and no step produces it (R84). `blockError` is
produced only on a map that is not well formed, against which no step runs (R19, R85). -/
inductive HostResult where
  | ok
  | response (r : Frame)
  | payload (p : Payload)
  | unsigned (v : Word16)
  | bool (b : Bool)
  | temperature (t : BitVec 32)
  | handles (transport pin : Nat)
  | blockError (e : BlockErr)
  | transportError (e : Nat)
  | digitalError (e : Nat)
deriving DecidableEq, Repr

/-- Why the machine stops. -/
inductive Fault where
  /-- Raised by a transaction the assumed transport never answers: the host is stuck (R90, I19). Safe. -/
  | transportStuck (kind : TxKind) (f : Frame)
  /-- Raised by a host sequence that reads an output the operation did not drive (R16, I14). Safe. -/
  | undrivenOutput (port : OutPort)
deriving DecidableEq, Repr

/-- Why the model declines a step (R79: each errs toward unprovable). -/
inductive Refusal where
  /-- Raised by an arm of `exec` whose instruction has no meaning yet. Safe. -/
  | notModelled (mnemonic : String)
  /-- Raised by `step` on bytes that are no frame (R43, R52). Safe. -/
  | undecodable (e : DecodeError)
  /-- Raised by `step` on a map that fails a check (R19, R79). Safe. -/
  | badRegmap (c : RegmapCheck)
  /-- Raised by a host operation, a wire frame's `XWRITE` or `XFER` among them, when the lifecycle does not allow it
  (R69, R79). Safe. -/
  | notLive (c : HostCall)
  /-- Raised by an access to an address not in `REGMAP` (R70, R72, R79). Safe. -/
  | unknownAddress (addr : Byte)
  /-- Raised by a field-level write to a ReadOnly register (R71, R79). Safe. -/
  | readOnlyWrite (addr : Byte)
  /-- Raised by a setting wider than its field (R71, R79). Safe. -/
  | fieldValueTooWide (field : String) (value : Word16)
  /-- Raised by a field name the register does not have, which the typed interface cannot express (log entry 12).
  Safe. -/
  | unknownField (addr : Byte) (field : String)
deriving DecidableEq, Repr

/-- The machine. -/
structure State where
  /-- What the host presents next, first to last (R15, R66). -/
  todo      : List Presented
  /-- The rest of the host operation under way, if one is between two of its transactions (R74, R106). -/
  active    : Option ActiveCall
  /-- The output ports of the operation just presented (R16). -/
  out       : Outputs
  /-- The configuration (R8, R14). -/
  cfg       : HostConfig
  /-- The host's lifecycle with its handles (R23). -/
  lifecycle : Lifecycle
  /-- The level of the enable pin (R77). -/
  pinHigh   : Bool
  /-- The device's register space (R22). -/
  mem       : Memory
  /-- What is assumed of the transport and the device (R36, D19). -/
  device    : Device
  /-- The transactions issued, oldest first (R38, R86). -/
  log       : List Transaction
  /-- The response frame the host holds for `DEC_RD` (R72). -/
  response  : Option Frame
  /-- What the last host operation ended with (R78); none while one is under way. -/
  result    : Option HostResult
  /-- The model's own: which free value is drawn next (log entry 20). -/
  draws     : Nat
deriving DecidableEq, Repr

/-- The configuration of the example device: REG0_ORDER as given (D8), `UNSET_FIELD_DEFAULT = RESET_VALUE` (D32),
R76's arithmetic (D14), control register 0, sensor register 76 (R20, R21). -/
def exampleConfig (reg0Order : WireOrder) : HostConfig :=
  ⟨exampleRegmap reg0Order, .resetValue, .binary32 tempSlope tempOffset, 0, 76⟩

/-- The machine after reset (R26): nothing presented, no output driven, no handle, the device's registers a draw. -/
def State.reset : State where
  todo := []
  active := none
  out := .undriven
  cfg := exampleConfig .swapped
  lifecycle := .noHandle
  pinHigh := false
  mem := []
  device := .unknown
  log := []
  response := none
  result := none
  draws := 0

end Sys2Proof.Machine
end

