-- ==== Sys2Proof/Machine/Operands.lean ====
section
/-! DEFINITION. Operand forms: the value of a payload and back (00_scope.md R11), the data field's byte order
(30_encoding.md R46), the address byte (R45), bit ranges (R49, R50). -/

namespace Sys2Proof.Machine

/-- `cat(a, b) = a*256 + b` (R9). -/
def cat (a b : Byte) : Word16 := a ++ b

/-- `value(p, LE) = cat(p1, p0)`, `value(p, BE) = cat(p0, p1)` (R11). -/
def value (p : Payload) : ValueOrder → Word16
  | .little => cat p.p1 p.p0
  | .big => cat p.p0 p.p1

/-- `bytes(v, LE) = [v[7:0], v[15:8]]`, `bytes(v, BE) = [v[15:8], v[7:0]]` (R11). -/
def bytes (v : Word16) : ValueOrder → Payload
  | .little => ⟨v.extractLsb' 0 8, v.extractLsb' 8 8⟩
  | .big => ⟨v.extractLsb' 8 8, v.extractLsb' 0 8⟩

/-- DIRECT keeps the two data bytes, SWAPPED exchanges them; encoding and decoding are the same permutation (R46). -/
def permute (p : Payload) : WireOrder → Payload
  | .direct => p
  | .swapped => ⟨p.p1, p.p0⟩

/-- `f0` of a write frame: `ADDR & 0x7F` (R45). -/
def writeByte0 (addr : Byte) : Byte := addr &&& 0x7F

/-- `f0` of a read frame: `(ADDR & 0x7F) | 0x80` (R45). -/
def readByte0 (addr : Byte) : Byte := (addr &&& 0x7F) ||| 0x80

/-- The width `HI - LO + 1` of a range with `LO <= HI` (R49). -/
def rangeWidth (lo hi : BitVec 4) : Nat := hi.toNat - lo.toNat + 1

/-- `(1 << w) - 1`, computed at 17 bits and taken as 16 (R60, R61). -/
def rangeMask (lo hi : BitVec 4) : Word16 := ((1#17 <<< rangeWidth lo hi) - 1#17).setWidth 16

end Sys2Proof.Machine
end

