-- ==== Sys2Proof/Machine/Flags.lean ====
section
/-! DEFINITION. The one status the block reports, `ERR` (10_state.md R16, R24): its codes and when each error holds
(60_exceptions.md R80 to R82, in the priority of R85). The block has no other flag. -/

namespace Sys2Proof.Machine

/-- The 2-bit code on `ERR` (R16, R79). -/
def errCode : BlockErr → BitVec 2
  | .ok => 0
  | .illegalOp _ => 1
  | .bfRange _ _ => 2
  | .bfValue _ _ => 3

/-- `BF_RANGE` when `LO > HI` (R81). -/
def rangeError (lo hi : BitVec 4) : Option BlockErr := if hi < lo then some (.bfRange lo hi) else none

/-- `BF_VALUE` when the value has a bit at or above the width (R82). -/
def valueError (lo hi : BitVec 4) (fval : Word16) : Option BlockErr :=
  if fval &&& ~~~ rangeMask lo hi = 0 then none else some (.bfValue fval (rangeWidth lo hi))

/-- What is wrong with a `BF_INS`: the range before the value (R85). -/
def insertError (lo hi : BitVec 4) (fval : Word16) : Option BlockErr :=
  match rangeError lo hi with
  | some e => some e
  | none => valueError lo hi fval

end Sys2Proof.Machine
end

