-- ==== Sys2Proof/Machine/Ops.lean ====
section
/-! DEFINITION. The named operations over the state: driving the output ports, raising an error (the block's whole
exception handling, 60_exceptions.md R78, R86), the device's register space, and one bus transaction against what
is assumed of the device (20_memory.md R35, R36, R38). -/

namespace Sys2Proof.Machine

/-- The three outcomes of one step of this machine. -/
abbrev Result := Host.Outcome State Fault Refusal

/-! ### Output ports -/

/-- `FRAME_OUT <- f ; ERR <- OK` (R10). -/
def Outputs.ofFrame (f : Frame) : Outputs := ⟨some f, none, none, some .ok⟩

/-- `PAY_OUT <- p ; ERR <- OK`. -/
def Outputs.ofPayload (p : Payload) : Outputs := ⟨none, some p, none, some .ok⟩

/-- `FIELD_OUT <- v ; ERR <- OK`. -/
def Outputs.ofField (v : Word16) : Outputs := ⟨none, none, some v, some .ok⟩

/-- `raise e`: the error on `ERR` and no data output (R10, R78). -/
def Outputs.ofError (e : BlockErr) : Outputs := ⟨none, none, none, some e⟩

/-- The output ports hold what the presented operation drives, and nothing of an earlier one (R13, R16, R24). -/
def State.drive (s : State) (o : Outputs) : State := { s with out := o }

/-- RAISING AN ERROR, the one form an exception takes here: there is no trap, vector, handler, saved state or mode
change, so only the output ports change (R86), and nothing has to be restored afterwards (R87). -/
def State.raise (s : State) (e : BlockErr) : State := s.drive (.ofError e)

/-- Read `FRAME_OUT`; reading a port that holds no value is the reader's fault (R16). -/
def Outputs.takeFrame (o : Outputs) (k : Frame → Result) : Result :=
  match o.frameOut with
  | some f => k f
  | none => .fault (.undrivenOutput .frameOut)

/-- Read `PAY_OUT`. -/
def Outputs.takePayload (o : Outputs) (k : Payload → Result) : Result :=
  match o.payOut with
  | some p => k p
  | none => .fault (.undrivenOutput .payOut)

/-- Read `FIELD_OUT`. -/
def Outputs.takeField (o : Outputs) (k : Word16 → Result) : Result :=
  match o.fieldOut with
  | some v => k v
  | none => .fault (.undrivenOutput .fieldOut)

/-! ### The device's register space (R22, R27) -/

/-- The byte listed at a cell, if one is. -/
def memRead : Memory → Nat → Option Byte
  | [], _ => none
  | (k, b) :: m, a => if k = a then some b else memRead m a

/-- List a byte at a cell, the cells rising. -/
def memWrite : Memory → Nat → Byte → Memory
  | [], a, b => [(a, b)]
  | (k, c) :: m, a, b =>
    if a < k then (a, b) :: (k, c) :: m
    else if a = k then (a, b) :: m
    else (k, c) :: memWrite m a b

/-- The canonical form: cells strictly rising, all of the 128 registers' 256 bytes. No listed byte can equal what an
unlisted cell reads as, since an unlisted cell has no value. -/
def memWf (m : Memory) : Bool :=
  decide (m.Pairwise (fun x y => x.1 < y.1)) && m.all (fun c => decide (c.1 < 256))

/-- The cell of a register's wire byte `k` (0 for `w1`, 1 for `w2`, D19). -/
def cellOf (reg : BitVec 7) (k : Nat) : Nat := 2 * reg.toNat + k

/-- The byte a register's cell gives; what is not known is a free value (R22, D24). -/
def cellRead (m : Memory) (a : Nat) : Byte := (memRead m a).getD (Config.freeCellByte a)

/-- Both wire bytes of a register, written whole (R27). -/
def regWrite (m : Memory) (reg : BitVec 7) (w1 w2 : Byte) : Memory :=
  memWrite (memWrite m (cellOf reg 0) w1) (cellOf reg 1) w2

/-- The register a command frame addresses: `f0[6:0]`, zero-extended (R45). -/
def frameReg (f : Frame) : BitVec 7 := f.f0.extractLsb' 0 7

/-- `RW`, `f0[7]`: set for a read (R43). -/
def frameIsRead (f : Frame) : Bool := f.f0.getLsbD 7

/-! ### What is assumed of the device (R36, D18, D19) -/

/-- The transport never answers this transaction (R90). -/
def Device.hangs : Device → Bool
  | .script (.never :: _) => true
  | _ => false

/-- What is assumed after one transaction: a script has used up one line. -/
def Device.rest : Device → Device
  | .script (_ :: ls) => .script ls
  | .script [] => .script []
  | .echo => .echo
  | .unknown => .unknown

/-- The transport error the transaction ends in, if it fails: a draw, but for the fixtures (R83, D19). -/
def Device.failure (d : Device) (draw : Nat) : Option Nat :=
  match d with
  | .unknown => Config.freeFailure draw
  | .echo => none
  | .script [] => Config.freeFailure draw
  | .script (.fail e :: _) => some e
  | .script (_ :: _) => none

/-- The response to a full-duplex transfer: a draw, but for ECHO's answer to a read frame and a script's line
(R36, D19). -/
def Device.reply (d : Device) (m : Memory) (draw : Nat) (f : Frame) : Frame :=
  match d with
  | .unknown => frameOfWord (Config.freeResponse draw)
  | .echo =>
    if frameIsRead f then ⟨0x00, cellRead m (cellOf (frameReg f) 0), cellRead m (cellOf (frameReg f) 1)⟩
    else frameOfWord (Config.freeResponse draw)
  | .script (.respond r :: _) => r
  | .script _ => frameOfWord (Config.freeResponse draw)

/-- The register space after a transaction: ECHO stores a write frame's data bytes and changes nothing on a read
frame (D19); of any other device nothing is known afterwards (R35, R36, R101), so nothing stays listed. -/
def Device.memAfter (d : Device) (m : Memory) (f : Frame) : Memory :=
  match d with
  | .echo => if frameIsRead f then m else regWrite m (frameReg f) f.f1 f.f2
  | .unknown => []
  | .script _ => []

/-! ### One transaction (R10, R34, R35, R38) -/

/-- How the transaction ends. -/
def State.answer (s : State) (kind : TxKind) (f : Frame) : Answer :=
  match s.device.failure s.draws with
  | some e => .failed e
  | none =>
    match kind with
    | .write => .sent
    | .transfer => .received (s.device.reply s.mem s.draws f)

/-- The result the caller of a transaction gets (R10). -/
def Answer.result : Answer → HostResult
  | .sent => .ok
  | .received r => .response r
  | .failed e => .transportError e

/-- The response a transaction leaves with the host: a write captures nothing (R70). -/
def Answer.captured : Answer → Option Frame
  | .received r => some r
  | .sent => none
  | .failed _ => none

/-- The state after a transaction that completed or failed: it is appended to the log, whichever it was (R86). -/
def State.afterTransaction (s : State) (kind : TxKind) (f : Frame) : State :=
  { s with
    out := .undriven
    mem := s.device.memAfter s.mem f
    device := s.device.rest
    log := s.log ++ [⟨kind, f, s.answer kind f⟩]
    response := (s.answer kind f).captured
    result := some (s.answer kind f).result
    draws := s.draws + 1 }

/-- One blocking transaction: complete, failed, or never answered, which leaves the host stuck (R38, R90). -/
def transact (kind : TxKind) (f : Frame) (s : State) : Result :=
  if s.device.hangs then .fault (.transportStuck kind f) else .next (s.afterTransaction kind f)

/-! ### The handle (R23, R69) -/

/-- The host holds a handle (R23). -/
def isLive (s : State) : Bool :=
  match s.lifecycle with
  | .live _ _ => true
  | .noHandle => false
  | .destroyed => false

/-- `require Live`: an operation of the host is refused before `NEW` and after `DESTROY` (R69). -/
def requireLive (c : HostCall) (s : State) (r : Result) : Result := if isLive s then r else .refused (.notLive c)

/-- `XWRITE`: `XWrite` through the transport of the handle (R10, R66, R69). -/
def xwrite (f : Frame) (s : State) : Result := requireLive (.xwrite f) s (transact .write f s)

/-- `XFER`: `XTransfer` through the transport of the handle (R10, R66, R69). -/
def xfer (f : Frame) (s : State) : Result := requireLive (.xfer f) s (transact .transfer f s)

end Sys2Proof.Machine
end

