-- ==== Sys2Proof/Machine/Bitfield.lean ====
section
/-! DEFINITION. The bitfield extractor and packer (42_bitfield.md): `BF_EXT` and `BF_INS`. -/

namespace Sys2Proof.Machine

/-- `(v >> LO) & mask` (R60). -/
def extractField (v : Word16) (lo hi : BitVec 4) : Word16 := (v >>> lo.toNat) &&& rangeMask lo hi

/-- `(v & ~(mask << LO)) | (FVAL << LO)` (R61). -/
def insertField (v : Word16) (lo hi : BitVec 4) (fval : Word16) : Word16 :=
  (v &&& ~~~ (rangeMask lo hi <<< lo.toNat)) ||| (fval <<< lo.toNat)

/-- `BF_EXT`'s outputs (R60). -/
def bfExtOutputs (p : Payload) (vord : ValueOrder) (lo hi : BitVec 4) : Outputs :=
  match rangeError lo hi with
  | some e => .ofError e
  | none => .ofField (extractField (value p vord) lo hi)

/-- The payload `BF_INS` makes, or the error it raises (R61). -/
def bfInsPayload (p : Payload) (vord : ValueOrder) (lo hi : BitVec 4) (fval : Word16) : Except BlockErr Payload :=
  match insertError lo hi fval with
  | some e => .error e
  | none => .ok (bytes (insertField (value p vord) lo hi fval) vord)

/-- `BF_INS`'s outputs (R61). -/
def bfInsOutputs (p : Payload) (vord : ValueOrder) (lo hi : BitVec 4) (fval : Word16) : Outputs :=
  match bfInsPayload p vord lo hi fval with
  | .error e => .ofError e
  | .ok q => .ofPayload q

/-- `BF_EXT` (R60). -/
def execBfExt (p : Payload) (vord : ValueOrder) (lo hi : BitVec 4) (s : State) : Result :=
  .next (s.drive (bfExtOutputs p vord lo hi))

/-- `BF_INS` (R61). -/
def execBfIns (p : Payload) (vord : ValueOrder) (lo hi : BitVec 4) (fval : Word16) (s : State) : Result :=
  .next (s.drive (bfInsOutputs p vord lo hi fval))

end Sys2Proof.Machine
end

