-- ==== Sys2Proof/Machine/Deframer.lean ====
section
/-! DEFINITION. The deframer (41_deframer.md): `DEC_RD`. -/

namespace Sys2Proof.Machine

/-- The payload in response bytes 1 and 2; byte 0 is not read (R58). -/
def responsePayload (r : Frame) (order : WireOrder) : Payload := permute ⟨r.f1, r.f2⟩ order

/-- `DEC_RD`'s outputs: total, no error (R58). -/
def decRdOutputs (r : Frame) (order : WireOrder) : Outputs := .ofPayload (responsePayload r order)

/-- `DEC_RD` (R58). -/
def execDecRd (r : Frame) (order : WireOrder) (s : State) : Result := .next (s.drive (decRdOutputs r order))

end Sys2Proof.Machine
end

