-- ==== Sys2Proof/Machine/Framer.lean ====
section
/-! DEFINITION. The framer (40_framer.md): `ENC_WR` and `ENC_RD`, each as its output record (10_state.md R13) and as
a step. -/

namespace Sys2Proof.Machine

/-- The write command frame (R55). -/
def writeCommand (addr : Byte) (p : Payload) (order : WireOrder) : Frame :=
  ⟨writeByte0 addr, (permute p order).p0, (permute p order).p1⟩

/-- The read command frame, with zero data bytes (R56). -/
def readCommand (addr : Byte) : Frame := ⟨readByte0 addr, 0x00, 0x00⟩

/-- `ENC_WR`'s outputs: total, no error (R55). -/
def encWrOutputs (addr : Byte) (p : Payload) (order : WireOrder) : Outputs := .ofFrame (writeCommand addr p order)

/-- `ENC_RD`'s outputs: total, no error (R56). -/
def encRdOutputs (addr : Byte) : Outputs := .ofFrame (readCommand addr)

/-- `ENC_WR` (R55). -/
def execEncWr (addr : Byte) (p : Payload) (order : WireOrder) (s : State) : Result :=
  .next (s.drive (encWrOutputs addr p order))

/-- `ENC_RD` (R56). -/
def execEncRd (addr : Byte) (s : State) : Result := .next (s.drive (encRdOutputs addr))

end Sys2Proof.Machine
end

