-- ==== Sys2Proof/Machine/Reserved.lean ====
section
/-! DEFINITION. The reserved operation codes (30_encoding.md R51): each raises `ILLEGAL_OP` with its code, reads no
operand and drives no data output (60_exceptions.md R80). -/

namespace Sys2Proof.Machine

/-- `OP = 101` (R51, R80). -/
def execReserved101 (s : State) : Result := .next (s.raise (.illegalOp 0b101))

/-- `OP = 110` (R51, R80). -/
def execReserved110 (s : State) : Result := .next (s.raise (.illegalOp 0b110))

/-- `OP = 111` (R51, R80). -/
def execReserved111 (s : State) : Result := .next (s.raise (.illegalOp 0b111))

end Sys2Proof.Machine
end

