-- ==== Sys2Proof/Machine/Wire.lean ====
section
/-! DEFINITION. The wire frames of opcode_table.json as steps (30_encoding.md R44): a write frame is sent by
`XWrite`, a read frame by `XTransfer`, through the transport of the handle; a response frame arrives for `DEC_RD` (log
entry 3). -/

namespace Sys2Proof.Machine

/-- `WRITE_FRAME`: `XWrite` of the frame (R10, R44). -/
def execWriteFrame (reg : BitVec 7) (d1 d2 : Byte) (s : State) : Result :=
  xwrite ⟨commandByte0 0#1 reg, d1, d2⟩ s

/-- `READ_FRAME`: `XTransfer` of the frame (R10, R44). -/
def execReadFrame (reg : BitVec 7) (d1 d2 : Byte) (s : State) : Result :=
  xfer ⟨commandByte0 1#1 reg, d1, d2⟩ s

/-- `READ_RESPONSE`: the host holds the response for `DEC_RD`; the block is presented no operation (R44). -/
def execReadResponse (b0 d1 d2 : Byte) (s : State) : Result :=
  .next { s.drive .undriven with response := some ⟨b0, d1, d2⟩ }

end Sys2Proof.Machine
end

