-- ==== Sys2Proof/Machine/Dispatch.lean ====
section
/-! DEFINITION. The meaning of each instruction, one arm per constructor. -/

namespace Sys2Proof.Machine

def exec (i : Instr) (s : State) : Host.Outcome State Fault Refusal :=
  match i with
  | .encWr addr payload order => Sys2Proof.Machine.execEncWr addr payload order s
  | .encRd addr => Sys2Proof.Machine.execEncRd addr s
  | .decRd response order => Sys2Proof.Machine.execDecRd response order s
  | .bfExt payload vord lo hi => Sys2Proof.Machine.execBfExt payload vord lo hi s
  | .bfIns payload vord lo hi fval => Sys2Proof.Machine.execBfIns payload vord lo hi fval s
  | .reserved101 => Sys2Proof.Machine.execReserved101 s
  | .reserved110 => Sys2Proof.Machine.execReserved110 s
  | .reserved111 => Sys2Proof.Machine.execReserved111 s
  | .writeFrame reg d1 d2 => Sys2Proof.Machine.execWriteFrame reg d1 d2 s
  | .readFrame reg d1 d2 => Sys2Proof.Machine.execReadFrame reg d1 d2 s
  | .readResponse b0 d1 d2 => Sys2Proof.Machine.execReadResponse b0 d1 d2 s

end Sys2Proof.Machine
end

