-- ==== Sys2Proof/Machine/HostOps.lean ====
section
/-! DEFINITION. The host's operations (45_register_access.md) as sequences of block operations and transactions.
A transaction is one step of the host, with the block's operations around it, which take no time (70_reset_and_hazards.md
R106; log entry 18): every operation is one step but `RESET`, which is two. -/

namespace Sys2Proof.Machine

/-! ### Sequencing -/

/-- Go on with the next state, if there is one. -/
def andThen (r : Result) (k : State → Result) : Result :=
  match r with
  | .next s => k s
  | .fault e => .fault e
  | .refused e => .refused e

/-- A result ends the operation there: the first transaction that fails ends it with its error (R83, R86). -/
def endsOperation : Option HostResult → Bool
  | some (.transportError _) => true
  | some (.blockError _) => true
  | _ => false

/-- Go on unless the operation has ended in an error (R86). -/
def unlessFailed (r : Result) (k : State → Result) : Result :=
  andThen r (fun s => if endsOperation s.result then .next s else k s)

/-- End with a result (R78). -/
def State.finish (s : State) (r : HostResult) : State := { s with result := some r }

/-- `reg <- REGMAP[addr]`, refused if there is none (D33). -/
def withReg (addr : Byte) (s : State) (k : RegDesc → Result) : Result :=
  match findReg s.cfg.regmap addr with
  | some r => k r
  | none => .refused (.unknownAddress addr)

/-! ### Lifecycle -/

/-- `NEW`: stores both handles, always succeeds (R67); there is no way out of `Destroyed` (R69). -/
def hostNew (transport pin : Nat) (s : State) : Result :=
  match s.lifecycle with
  | .destroyed => .refused (.notLive (.new transport pin))
  | .noHandle => .next { s.finish .ok with lifecycle := .live transport pin }
  | .live _ _ => .next { s.finish .ok with lifecycle := .live transport pin }

/-- `DESTROY`: gives back the very handles of `NEW`; no transaction (R68). -/
def hostDestroy (s : State) : Result :=
  match s.lifecycle with
  | .live t p => .next { s.finish (.handles t p) with lifecycle := .destroyed }
  | .noHandle => .refused (.notLive .destroy)
  | .destroyed => .refused (.notLive .destroy)

/-! ### Register access -/

/-- `WRRAW` after `require Live` (R70). -/
def writeRegister (addr : Byte) (p : Payload) (s : State) : Result :=
  withReg addr s fun reg =>
    (encWrOutputs addr p reg.wireOrder).takeFrame fun f => transact .write f s

/-- What the host returns once `DEC_RD` has decoded the response it holds; no response means the transfer failed,
and its error stands (R72). -/
def deliverPayload (order : WireOrder) (s : State) : Result :=
  match s.response with
  | none => .next s
  | some r => (decRdOutputs r order).takePayload fun p => .next (s.finish (.payload p))

/-- `RDREG` after `require Live` (R72). -/
def readRegister (addr : Byte) (s : State) : Result :=
  withReg addr s fun reg =>
    (encRdOutputs addr).takeFrame fun f => andThen (transact .transfer f s) (deliverPayload reg.wireOrder)

/-! ### Fields -/

/-- A field's ends on the 4-bit ports `LO` and `HI` (R15). -/
def fieldLo (f : FieldDesc) : BitVec 4 := BitVec.ofNat 4 f.lo
def fieldHi (f : FieldDesc) : BitVec 4 := BitVec.ofNat 4 f.hi

/-- What a field's bits are to the caller: a bool is `bit != 0` (R62). -/
def fieldResult (f : FieldDesc) (v : Word16) : HostResult :=
  match f.kind with
  | .bool => .bool (v != 0)
  | .unsigned => .unsigned v

/-- `BF_EXT` of a field of the payload the host has just read, and what is done with it (R73, R75). -/
def withField (reg : RegDesc) (f : FieldDesc) (k : Word16 → State → Result) (s : State) : Result :=
  match s.result with
  | some (.payload p) =>
    (bfExtOutputs p reg.byteOrder (fieldLo f) (fieldHi f)).takeField fun v => k v s
  | _ => .next s

/-- `REGMAP[addr]`'s field of a name. -/
def withNamedField (addr : Byte) (name : String) (s : State) (k : RegDesc → FieldDesc → Result) : Result :=
  withReg addr s fun reg =>
    match findField reg.fields name with
    | some f => k reg f
    | none => .refused (.unknownField addr name)

/-- Reading a named field after `require Live` (R73). -/
def readNamedField (addr : Byte) (name : String) (s : State) : Result :=
  withNamedField addr name s fun reg f =>
    unlessFailed (readRegister addr s) (withField reg f fun v t => .next (t.finish (fieldResult f v)))

/-- `RDTEMP` after `require Live` (R75): the field `rb_temp_sens` of the sensor register, then `temp` (R76). -/
def readTemperature (s : State) : Result :=
  withNamedField s.cfg.sensorAddr "rb_temp_sens" s fun reg f =>
    unlessFailed (readRegister s.cfg.sensorAddr s)
      (withField reg f fun v t => .next (t.finish (.temperature (temp t.cfg.tempArith v))))

/-! ### Field-level writes -/

/-- The settings with their fields, or the refusal: a name the register does not have, then a value too wide for its
field (R71, R85). DESIGN CHOICE (log entry 25): of several settings that are refused for the same reason the first in
the order set is the one recorded; the spec says of none. -/
def resolveSettings (reg : RegDesc) : List Setting → Except Refusal (List (FieldDesc × Word16))
  | [] => .ok []
  | x :: xs =>
    match findField reg.fields x.field, resolveSettings reg xs with
    | none, _ => .error (.unknownField reg.address x.field)
    | some _, .error (.unknownField a n) => .error (.unknownField a n)
    | some f, r =>
      if 2 ^ fieldWidth f ≤ x.value.toNat then .error (.fieldValueTooWide x.field x.value)
      else r.map ((f, x.value) :: ·)

/-- `p <- BF_INS p, ...` for each setting in order (R64); an error ends it (R78). -/
def insertAll (vord : ValueOrder) : List (FieldDesc × Word16) → Payload → Except BlockErr Payload
  | [], p => .ok p
  | (f, v) :: rest, p =>
    match bfInsPayload p vord (fieldLo f) (fieldHi f) v with
    | .error e => .error e
    | .ok q => insertAll vord rest q

/-- The base of a field-level write: the reset value, under `ZERO` with every named field cleared first (R64, D32). -/
def writeBase (d : UnsetDefault) (reg : RegDesc) : Except BlockErr Payload :=
  match d with
  | .resetValue => .ok reg.resetValue
  | .zero => insertAll reg.byteOrder (reg.fields.map fun f => (f, 0)) reg.resetValue

/-- `assemble(reg, settings)` (R64). -/
def assemble (d : UnsetDefault) (reg : RegDesc) (settings : List (FieldDesc × Word16)) : Except BlockErr Payload :=
  (writeBase d reg).bind (insertAll reg.byteOrder settings)

/-- `WRREG` after `require Live` (R71): refused for a ReadOnly register, then for a setting that does not fit, before
any transaction (R85). -/
def writeFields (addr : Byte) (settings : List Setting) (s : State) : Result :=
  withReg addr s fun reg =>
    match reg.access with
    | .readOnly => .refused (.readOnlyWrite addr)
    | .readWrite =>
      match resolveSettings reg settings with
      | .error r => .refused r
      | .ok fs =>
        match assemble s.cfg.unsetDefault reg fs with
        | .error e => .next (s.finish (.blockError e))
        | .ok p => writeRegister addr p s

/-- One write of the reset pulse (R74). -/
def pulseSettings (b : Word16) : List Setting := [⟨"reset", b⟩, ⟨"foo", 0⟩, ⟨"bar", 0⟩]

/-- `RESET` after `require Live`, up to its first transaction (R74): the write that asserts the field. Unless that write
failed, which ends `RESET` (R86), the second is the next step's, and there is no result yet. -/
def hostReset (s : State) : Result :=
  unlessFailed (writeFields s.cfg.controlAddr (pulseSettings 1) s)
    (fun t => .next { t with active := some .resetSecondWrite, result := none })

/-- The second write of `RESET`: the one that clears the field; `RESET` ends as it does (R74). -/
def hostResetEnd (s : State) : Result := writeFields s.cfg.controlAddr (pulseSettings 0) s

/-- The rest of an operation under way, which stays one of the handle's (R69). -/
def resumeCall (a : ActiveCall) (s : State) : Result :=
  match a with
  | .resetSecondWrite => requireLive .reset s (hostResetEnd s)

/-- One operation of the host (R66 to R75), up to its first transaction. -/
def hostCall (c : HostCall) (s : State) : Result :=
  match c with
  | .new t p => hostNew t p s
  | .destroy => hostDestroy s
  | .writeRaw a p => requireLive c s (writeRegister a p s)
  | .writeFields a xs => requireLive c s (writeFields a xs s)
  | .readReg a => requireLive c s (readRegister a s)
  | .readField a n => requireLive c s (readNamedField a n s)
  | .reset => requireLive c s (hostReset s)
  | .readTemp => requireLive c s (readTemperature s)
  | .xwrite f => xwrite f s
  | .xfer f => xfer f s

end Sys2Proof.Machine
end

