-- ==== Sys2Proof/Machine/Run.lean ====
section
/-! DEFINITION. Going on with the operation under way, or else taking what is presented next and running it: a block
operation or frame through its decoding (30_encoding.md R47), a host operation through its sequence
(45_register_access.md). -/

namespace Sys2Proof.Machine

/-- A map that is not well formed refuses every step (R19, R98, log entry 11). -/
def startProblem (s : State) : Option Refusal := (regmapProblem s.cfg.regmap).map .badRegmap

/-- The next thing presented, and the state without it. -/
def takeNext (s : State) : Option (Presented × State) :=
  match s.todo with
  | [] => none
  | x :: rest => some (x, { s with todo := rest })

/-- Nothing is presented: no output is driven (R26) and nothing else changes (R88). -/
def idle (s : State) : State := s.drive .undriven

/-- Run what is presented: an instruction by `exec`; a host operation with no operation left on the ports. -/
def runPresented (x : Presented) (s : State) : Result :=
  match x with
  | .instr e =>
    match decode e with
    | .instr i => exec i s
    | .rejected err => .refused (.undecodable err)
  | .call c => hostCall c (s.drive .undriven)

/-- Go on with the operation under way, since the host blocks until it returns (R38); or else run what is presented
next; or else idle. -/
def runNext (s : State) : Result :=
  match s.active with
  | some a => resumeCall a { s with active := none, out := .undriven }
  | none =>
    match takeNext s with
    | none => .next (idle s)
    | some (x, t) => runPresented x t

/-- The handle a command frame needs (R69): the one held, or one for the load of a single frame (log entry 1). -/
def handleFor (e : Encoded) (l : Lifecycle) : Lifecycle :=
  match e, l with
  | .command _, .noHandle => .live 0 0
  | .command _, .destroyed => .live 0 0
  | _, l => l

/-- What the host's own question about a word of opcode_table.json presents, next: no operation is under way, and a
command frame finds a handle. -/
def presentWord (nbits w : Nat) (s : State) : State :=
  { s with
    todo := .instr (encodedOfTableWord nbits w) :: s.todo
    active := none
    lifecycle := handleFor (encodedOfTableWord nbits w) s.lifecycle }

end Sys2Proof.Machine
end

