-- ==== Sys2Proof/Machine/Step.lean ====
section
/-! DEFINITION. One step of the machine: the next thing presented is run (10_state.md R15: one operation at a
time). -/

namespace Sys2Proof.Machine

/-- One step: refused on a map that is not well formed, and else what comes next. -/
def step (s : State) : Host.Outcome State Fault Refusal :=
  match startProblem s with
  | some r => .refused r
  | none => runNext s

/-- The state with the table's word presented next: the machine fetches nothing, an operation is presented to it
(R28, R47; log entry 1). -/
def State.withFetchWord (s : State) (nbits w : Nat) : State := presentWord nbits w s

end Sys2Proof.Machine
end

