-- ==== Sys2Proof/Safety.lean ====
section
/-! DEFINITION. The terms the statements use: what an operation answers, numbers read from the spec's own words
(00_scope.md R9, R11), and the machine's invariant. -/

namespace Sys2Proof.Machine

/-! ### Numbers -/

/-- The 16-bit integer a payload denotes, as R9 and R11 give it: `cat(a, b) = a*256 + b`. -/
def valueNat (p : Payload) : ValueOrder → Nat
  | .little => p.p1.toNat * 256 + p.p0.toNat
  | .big => p.p0.toNat * 256 + p.p1.toNat

/-- Bits `hi` down to `lo` of a number, as a number (R9: `v[hi:lo]`). -/
def bitsNat (v lo hi : Nat) : Nat := v / 2 ^ lo % 2 ^ (hi - lo + 1)

/-! ### What an operation answers -/

/-- The output ports after an operation that answered. -/
def outputsOf : Result → Option Outputs
  | .next s => some s.out
  | .fault _ => none
  | .refused _ => none

/-- `FRAME_OUT` after an operation that answered and drove it. -/
def frameOf (r : Result) : Option Frame := (outputsOf r).bind Outputs.frameOut

/-- `PAY_OUT` after an operation that answered and drove it. -/
def payloadOf (r : Result) : Option Payload := (outputsOf r).bind Outputs.payOut

/-- `FIELD_OUT` after an operation that answered and drove it. -/
def fieldOf (r : Result) : Option Word16 := (outputsOf r).bind Outputs.fieldOut

/-- The operations of the block: the rows of opcode_table.json with an `OP` code (R48). -/
def isBlockOp : Instr → Bool
  | .encWr _ _ _ => true
  | .encRd _ => true
  | .decRd _ _ => true
  | .bfExt _ _ _ _ => true
  | .bfIns _ _ _ _ _ => true
  | .reserved101 => true
  | .reserved110 => true
  | .reserved111 => true
  | .writeFrame _ _ _ => false
  | .readFrame _ _ _ => false
  | .readResponse _ _ _ => false

/-- The host operations R69 refuses unless `Live`: all but `NEW`. -/
def needsLive : HostCall → Bool
  | .new _ _ => false
  | .destroy => true
  | .writeRaw _ _ => true
  | .writeFields _ _ => true
  | .readReg _ => true
  | .readField _ _ => true
  | .reset => true
  | .readTemp => true
  | .xwrite _ => true
  | .xfer _ => true

/-- The number of a finite binary32 value, in steps of 2^-149. -/
def signedMag : Float32Value → Option Int
  | .fin neg mag => some (if neg then -(mag : Int) else mag)
  | .inf _ => none

/-- A binary32 pattern has this sign, and its exponent and fraction give this magnitude in steps of 2^-149 (R76): exponent
0 for a subnormal number, 1 to 254 for a normal one. -/
def patternIs (b : BitVec 32) (neg : Bool) (mag : Nat) : Prop :=
  b.getLsbD 31 = neg ∧
  ((b.toNat / 2 ^ 23 % 256 = 0 ∧ mag = b.toNat % 2 ^ 23) ∨
   (1 ≤ b.toNat / 2 ^ 23 % 256 ∧ b.toNat / 2 ^ 23 % 256 ≤ 254 ∧
    mag = (2 ^ 23 + b.toNat % 2 ^ 23) * 2 ^ (b.toNat / 2 ^ 23 % 256 - 1)))

/-- The binary32 pattern of an infinity of this sign. -/
def patternIsInf (b : BitVec 32) (neg : Bool) : Prop :=
  b.getLsbD 31 = neg ∧ b.toNat / 2 ^ 23 % 256 = 255 ∧ b.toNat % 2 ^ 23 = 0

/-! ### What no step changes but for what the operation is about -/

/-- Everything a transaction leaves alone: what is still to be presented, what is under way, the configuration, the
host's lifecycle with its handles, and the enable pin. -/
def sameHost (s t : State) : Prop :=
  t.todo = s.todo ∧ t.active = s.active ∧ t.cfg = s.cfg ∧ t.lifecycle = s.lifecycle ∧ t.pinHigh = s.pinHigh

/-- From `s` to `t` the host issued the write of `f`, nothing else, and ended as that did: with OK, or with the
transport's error. -/
def isOneWrite (s t : State) (f : Frame) : Prop :=
  sameHost s t ∧
  ((t.log = s.log ++ [⟨.write, f, .sent⟩] ∧ t.result = some .ok) ∨
   ∃ x, t.log = s.log ++ [⟨.write, f, .failed x⟩] ∧ t.result = some (.transportError x))

/-- From `s` to `t` the host issued the transfer of `f`, nothing else, and ended as that did: with the response, which
it then holds, or with the transport's error and none. -/
def isOneTransfer (s t : State) (f : Frame) : Prop :=
  sameHost s t ∧
  ((∃ r, t.log = s.log ++ [⟨.transfer, f, .received r⟩] ∧ t.response = some r ∧ t.result = some (.response r)) ∨
   ∃ x, t.log = s.log ++ [⟨.transfer, f, .failed x⟩] ∧ t.response = none ∧ t.result = some (.transportError x))

/-- What any one transaction does to the rest of the model's state, by the model's own choices: the outputs hold nothing
(log entry 2), the assumed device moves on (log entry 6) and the counter of draws counts (log entry 20). -/
def afterOneTransaction (s t : State) : Prop :=
  t.out = .undriven ∧ t.device = s.device.rest ∧ t.draws = s.draws + 1

/-! ### The machine's invariant -/

/-- An operation drives either one data output with `ERR = OK`, or an error and no data output, or nothing is
presented (R16, R78). -/
def outputsConsistent (o : Outputs) : Bool :=
  match o.err with
  | none => o.frameOut.isNone && o.payOut.isNone && o.fieldOut.isNone
  | some .ok =>
    (o.frameOut.isSome && o.payOut.isNone && o.fieldOut.isNone) ||
    (o.frameOut.isNone && o.payOut.isSome && o.fieldOut.isNone) ||
    (o.frameOut.isNone && o.payOut.isNone && o.fieldOut.isSome)
  | some (.illegalOp _) => o.frameOut.isNone && o.payOut.isNone && o.fieldOut.isNone
  | some (.bfRange _ _) => o.frameOut.isNone && o.payOut.isNone && o.fieldOut.isNone
  | some (.bfValue _ _) => o.frameOut.isNone && o.payOut.isNone && o.fieldOut.isNone

/-- A register is known whole or not at all: it is read or written only whole (R27). -/
def registersWhole (m : Memory) : Prop := ∀ r : Nat, (memRead m (2 * r)).isSome = (memRead m (2 * r + 1)).isSome

/-- A write captures no response, a transfer that succeeded has one (R70, R72). -/
def answerFits (x : Transaction) : Bool :=
  match x.kind, x.answer with
  | .write, .sent => true
  | .write, .received _ => false
  | .write, .failed _ => true
  | .transfer, .sent => false
  | .transfer, .received _ => true
  | .transfer, .failed _ => true

/-- The result is no `DigitalError` (R84). -/
def notDigital : Option HostResult → Bool
  | some (.digitalError _) => false
  | _ => true

/-- What holds at reset and after every step. -/
structure MachineInv (s : State) : Prop where
  /-- The device's registers are in canonical form. -/
  memCanonical : memWf s.mem = true
  /-- Registers are known whole (R27). -/
  memWhole : registersWhole s.mem
  /-- The outputs are what one operation can drive (R16, R78). -/
  outputs : outputsConsistent s.out = true
  /-- Every logged transaction ended as its kind can (R70, R72). -/
  transactions : s.log.all answerFits = true
  /-- `DigitalError` is never produced (R84). -/
  noDigital : notDigital s.result = true
  /-- An operation under way is one of a `Live` host (R69) and has no result yet (R78). -/
  active : s.active ≠ none → isLive s = true ∧ s.result = none

end Sys2Proof.Machine
end

