-- ==== Sys2Proof/Certificates/Slice0/Obligations.lean ====
section
/-! DEFINITION. The statements for the provers, from the numbered rules of spec/. Each docstring names the rule; where a
statement rests on a decision D<n> of 92_eei_decisions.md or a log entry, it says so. -/

open Sys2Proof Sys2Proof.Machine

/-! ### The block's operations: results, and what they leave unchanged -/

/-- R55. `ENC_WR` drives `[ADDR & 0x7F, p0, p1]` under DIRECT and `[ADDR & 0x7F, p1, p0]` under SWAPPED with
`ERR = OK`, for every input, and changes nothing but the output ports. -/
def Obligations.EncWrDrivesTheWriteFrame : Prop :=
  ∀ (addr p0 p1 : Byte) (s : State),
    exec (.encWr addr ⟨p0, p1⟩ .direct) s =
      .next { s with out := ⟨some ⟨addr &&& 0x7F, p0, p1⟩, none, none, some .ok⟩ } ∧
    exec (.encWr addr ⟨p0, p1⟩ .swapped) s =
      .next { s with out := ⟨some ⟨addr &&& 0x7F, p1, p0⟩, none, none, some .ok⟩ }

/-- R56. `ENC_RD` drives `[ADDR | 0x80, 0, 0]` with `ERR = OK`, for every input, and changes nothing but the output
ports. -/
def Obligations.EncRdDrivesTheReadFrame : Prop :=
  ∀ (addr : Byte) (s : State),
    exec (.encRd addr) s = .next { s with out := ⟨some ⟨addr ||| 0x80, 0x00, 0x00⟩, none, none, some .ok⟩ } ∧
    addr ||| 0x80 = (addr &&& 0x7F) ||| 0x80

/-- R58. `DEC_RD` drives `[r1, r2]` under DIRECT and `[r2, r1]` under SWAPPED with `ERR = OK`, whatever `r0` is, and
changes nothing but the output ports. -/
def Obligations.DecRdDrivesThePayload : Prop :=
  ∀ (r0 r1 r2 : Byte) (s : State),
    exec (.decRd ⟨r0, r1, r2⟩ .direct) s = .next { s with out := ⟨none, some ⟨r1, r2⟩, none, some .ok⟩ } ∧
    exec (.decRd ⟨r0, r1, r2⟩ .swapped) s = .next { s with out := ⟨none, some ⟨r2, r1⟩, none, some .ok⟩ }

/-- R60, for a range with `LO <= HI`: `BF_EXT` drives bits `HI` down to `LO` of the payload's value, as a number, with
`ERR = OK`, and changes nothing but the output ports. -/
def Obligations.BfExtDrivesTheField : Prop :=
  ∀ (p : Payload) (o : ValueOrder) (lo hi : BitVec 4) (s : State), lo ≤ hi →
    exec (.bfExt p o lo hi) s =
      .next { s with out :=
        ⟨none, none, some (BitVec.ofNat 16 (bitsNat (valueNat p o) lo.toNat hi.toNat)), some .ok⟩ }

/-- R61, for a range with `LO <= HI` and a value that fits (both conditions are the spec's decisions D10, D11):
`BF_INS` drives a payload whose value is the old one with the field replaced, with `ERR = OK`, and changes nothing
but the output ports. -/
def Obligations.BfInsDrivesThePayload : Prop :=
  ∀ (p : Payload) (o : ValueOrder) (lo hi : BitVec 4) (x : Word16) (s : State), lo ≤ hi →
    x.toNat < 2 ^ (hi.toNat - lo.toNat + 1) →
    ∃ q, exec (.bfIns p o lo hi x) s = .next { s with out := ⟨none, some q, none, some .ok⟩ } ∧
      valueNat q o + bitsNat (valueNat p o) lo.toNat hi.toNat * 2 ^ lo.toNat =
        valueNat p o + x.toNat * 2 ^ lo.toNat

/-- R81 and R85 (decisions D10, D13): with `LO > HI` both bitfield operations end in `BF_RANGE` (code 2, recording
`LO` and `HI`), whatever the value, drive no data output and change nothing else. -/
def Obligations.ReversedRangeRaisesBfRange : Prop :=
  ∀ (p : Payload) (o : ValueOrder) (lo hi : BitVec 4) (x : Word16) (s : State), hi < lo →
    exec (.bfExt p o lo hi) s = .next { s with out := ⟨none, none, none, some (.bfRange lo hi)⟩ } ∧
    exec (.bfIns p o lo hi x) s = .next { s with out := ⟨none, none, none, some (.bfRange lo hi)⟩ } ∧
    errCode (.bfRange lo hi) = 2

/-- R82 (decision D11): on a legal range a value with a bit at or above the width ends `BF_INS` in `BF_VALUE` (code 3,
recording the value and the width), with no data output and nothing else changed. -/
def Obligations.WideValueRaisesBfValue : Prop :=
  ∀ (p : Payload) (o : ValueOrder) (lo hi : BitVec 4) (x : Word16) (s : State), lo ≤ hi →
    2 ^ (hi.toNat - lo.toNat + 1) ≤ x.toNat →
    exec (.bfIns p o lo hi x) s =
      .next { s with out := ⟨none, none, none, some (.bfValue x (hi.toNat - lo.toNat + 1))⟩ } ∧
    errCode (.bfValue x (hi.toNat - lo.toNat + 1)) = 3

/-- R80 (decision D12): every request whose `OP` is 101, 110 or 111, whatever its operand ports hold, ends in
`ILLEGAL_OP` (code 1, recording the `OP` value), with no data output and nothing else changed. -/
def Obligations.ReservedCodesRaiseIllegalOp : Prop :=
  ∀ (q : Ports) (s : State), 5 ≤ q.op.toNat →
    exec (decodePorts q) s = .next { s with out := ⟨none, none, none, some (.illegalOp q.op)⟩ } ∧
    errCode (.illegalOp q.op) = 1 ∧
    (q.op = 5 → decodePorts q = .reserved101) ∧ (q.op = 6 → decodePorts q = .reserved110) ∧
    (q.op = 7 → decodePorts q = .reserved111)

/-- R13 (decision D4): an operation of the block always completes; its outputs are a function of its operands alone,
the same in any two states, and it changes nothing but the output ports. -/
def Obligations.BlockOperationsAreStateless : Prop :=
  ∀ i : Instr, isBlockOp i = true →
    ∃ o : Outputs, ∀ s : State, exec i s = .next { s with out := o }

/-! ### The wire frames as transactions -/

/-- R10, R38, R69, R83, R86: on a Live host against a transport that answers, a write frame is one write transaction of
exactly its three bytes, and so is the bare `XWRITE` of any frame. It ends in OK or in the transport's error, is logged
either way, captures no response, and leaves the host as it was. The model's own choices: that WRITE_FRAME as a step is
`XWRITE` and needs the handle (log entry 3), and what else of the state moves, `afterOneTransaction` (log entries 2, 6
and 20). -/
def Obligations.WriteFrameIsOneWrite : Prop :=
  ∀ s : State, isLive s = true → s.device.hangs = false →
    (∀ (a : BitVec 7) (d e : Byte), ∃ t, exec (.writeFrame a d e) s = .next t ∧
      isOneWrite s t ⟨BitVec.ofNat 8 a.toNat, d, e⟩ ∧ t.response = none ∧ afterOneTransaction s t) ∧
    ∀ f : Frame, ∃ t, hostCall (.xwrite f) s = .next t ∧
      isOneWrite s t f ∧ t.response = none ∧ afterOneTransaction s t

/-- R10, R38, R69, R83, R86: on a Live host against a transport that answers, a read frame is one full-duplex transfer of
exactly its three bytes, and so is the bare `XFER` of any frame. It ends with a response or with the transport's error,
is logged either way, and leaves the host as it was. The model's own choices: that READ_FRAME as a step is `XFER` and
needs the handle, and that the response is held (log entry 3), and what else of the state moves, `afterOneTransaction`
(log entries 2, 6 and 20). -/
def Obligations.ReadFrameIsOneTransfer : Prop :=
  ∀ s : State, isLive s = true → s.device.hangs = false →
    (∀ (a : BitVec 7) (d e : Byte), ∃ t, exec (.readFrame a d e) s = .next t ∧
      isOneTransfer s t ⟨BitVec.ofNat 8 (128 + a.toNat), d, e⟩ ∧ afterOneTransaction s t) ∧
    ∀ f : Frame, ∃ t, hostCall (.xfer f) s = .next t ∧ isOneTransfer s t f ∧ afterOneTransaction s t

/-- The fixture ECHO of decision D19 with R27: a write frame to register `a` stores both its data bytes, in frame
order, and no other byte of the register space changes. -/
def Obligations.EchoWriteStoresOneWholeRegister : Prop :=
  ∀ (a : BitVec 7) (d e : Byte) (s : State), isLive s = true → s.device = .echo →
    ∃ t, exec (.writeFrame a d e) s = .next t ∧ t.result = some .ok ∧ t.device = .echo ∧
      ∀ c, memRead t.mem c =
        if c = 2 * a.toNat then some d else if c = 2 * a.toNat + 1 then some e else memRead s.mem c

/-- The fixture ECHO of decision D19: a read frame is answered by 0x00 and the register's two bytes, whatever its own
data bytes are (R44), and changes no byte of the register space, known or not; so a second read of the register is
answered as the first. Of a byte that is not known (log entry 7) nothing else is said. -/
def Obligations.EchoReadAnswersTheRegister : Prop :=
  ∀ (a : BitVec 7) (d e : Byte) (s : State), isLive s = true → s.device = .echo →
    ∃ t w1 w2, exec (.readFrame a d e) s = .next t ∧ t.response = some ⟨0x00, w1, w2⟩ ∧
      t.result = some (.response ⟨0x00, w1, w2⟩) ∧ t.mem = s.mem ∧ t.device = .echo ∧
      (∀ w, memRead s.mem (2 * a.toNat) = some w → w1 = w) ∧
      (∀ w, memRead s.mem (2 * a.toNat + 1) = some w → w2 = w) ∧
      ∀ d' e', ∃ u, exec (.readFrame a d' e') t = .next u ∧ u.response = t.response

/-- R35, R36 (decisions D18, D25; how a draw is held is log entry 7): where nothing is assumed of the device, nothing is
known of any of its registers after a command frame, whichever was sent and however it ended. -/
def Obligations.NothingIsKnownOfAnUnassumedDevice : Prop :=
  ∀ (a : BitVec 7) (d e : Byte) (s t : State), s.device ≠ .echo →
    (exec (.writeFrame a d e) s = .next t ∨ exec (.readFrame a d e) s = .next t) → ∀ c, memRead t.mem c = none

/-- R44, R26: a response frame is held for `DEC_RD`; nothing else changes. The model's own choices: that READ_RESPONSE
is a step (log entry 3), and that no output is driven after it, since the block is presented no operation (log entry 2,
from R24 and R26). -/
def Obligations.ReadResponseIsHeldForTheDeframer : Prop :=
  ∀ (x d e : Byte) (s : State),
    exec (.readResponse x d e) s = .next { s with out := .undriven, response := some ⟨x, d, e⟩ }

/-- R90 (treatment I19): a Live host is stuck against a transport that never answers the next transaction, with either
command frame. -/
def Obligations.UnansweredTransactionIsStuck : Prop :=
  ∀ (a : BitVec 7) (d e : Byte) (s : State), isLive s = true → s.device.hangs = true →
    exec (.writeFrame a d e) s = .fault (.transportStuck .write ⟨BitVec.ofNat 8 a.toNat, d, e⟩) ∧
    exec (.readFrame a d e) s = .fault (.transportStuck .transfer ⟨BitVec.ofNat 8 (128 + a.toNat), d, e⟩)

/-! ### Encoding -/

/-- R43 to R49 (operation codes by decision D3): decoding the words of any instruction gives it back, every operand at
every value. -/
def Obligations.DecodeUndoesEncode : Prop := ∀ i : Instr, decode (encode i) = .instr i

/-- R43, R51: every 3-byte frame is one command, and encoding it gives the same three bytes. -/
def Obligations.EveryFrameIsOneCommand : Prop :=
  ∀ f : Frame, ∃ i, decode (.command [f.f0, f.f1, f.f2]) = .instr i ∧ encode i = .command [f.f0, f.f1, f.f2] ∧
    (f.f0.getLsbD 7 = false → ∃ a, i = .writeFrame a f.f1 f.f2 ∧ a.toNat = f.f0.toNat) ∧
    (f.f0.getLsbD 7 = true → ∃ a, i = .readFrame a f.f1 f.f2 ∧ a.toNat + 128 = f.f0.toNat)

/-- R43, R52: a byte string is a frame exactly when it has 3 bytes; any other length is rejected by name. -/
def Obligations.OnlyThreeBytesAreAFrame : Prop :=
  ∀ bs : List Byte,
    (bs.length ≠ 3 → decode (.command bs) = .rejected (.frameLength bs.length) ∧
      decode (.response bs) = .rejected (.frameLength bs.length)) ∧
    (bs.length = 3 → (∃ i, decode (.command bs) = .instr i) ∧ ∃ x d e, decode (.response bs) = .instr (.readResponse x d e))

/-- R44, R48 (codes by decision D3), as words written out from the tables: a request of each of the five operations,
a write frame, a read frame and a response. -/
def Obligations.WrittenOutWordsDecode : Prop :=
  decode (.ports ⟨0b000, 0x4C, ⟨0x12, 0x34⟩, 1, 0, ⟨0, 0, 0⟩, 0, 0, 0⟩) =
    .instr (.encWr 0x4C ⟨0x12, 0x34⟩ .swapped) ∧
  decode (.ports ⟨0b001, 0x4C, ⟨0, 0⟩, 0, 0, ⟨0, 0, 0⟩, 0, 0, 0⟩) = .instr (.encRd 0x4C) ∧
  decode (.ports ⟨0b010, 0, ⟨0, 0⟩, 1, 0, ⟨0xFF, 0x40, 0x22⟩, 0, 0, 0⟩) =
    .instr (.decRd ⟨0xFF, 0x40, 0x22⟩ .swapped) ∧
  decode (.ports ⟨0b011, 0, ⟨0x03, 0xE8⟩, 0, 1, ⟨0, 0, 0⟩, 0, 10, 0⟩) = .instr (.bfExt ⟨0x03, 0xE8⟩ .big 0 10) ∧
  decode (.ports ⟨0b100, 0, ⟨0x70, 0x40⟩, 0, 0, ⟨0, 0, 0⟩, 1, 1, 1⟩) =
    .instr (.bfIns ⟨0x70, 0x40⟩ .little 1 1 1) ∧
  decode (.command [0b01001100, 0x12, 0x34]) = .instr (.writeFrame 76 0x12 0x34) ∧
  decode (.command [0b11001100, 0x00, 0x00]) = .instr (.readFrame 76 0 0) ∧
  decode (.response [0xA5, 0x03, 0xE8]) = .instr (.readResponse 0xA5 0x03 0xE8)

/-! ### Laws of the framer and the deframer -/

/-- R57. `ENC_RD` sets bit 7 of byte 0, `ENC_WR` clears it, and both keep bits 6..0 of `ADDR`. -/
def Obligations.DirectionBitOfEveryCommand : Prop :=
  ∀ (a : Byte) (p : Payload) (o : WireOrder) (s s' : State),
    ∃ f g, frameOf (exec (.encWr a p o) s) = some f ∧ frameOf (exec (.encRd a) s') = some g ∧
      f.f0.getLsbD 7 = false ∧ g.f0.getLsbD 7 = true ∧
      ∀ i < 7, f.f0.getLsbD i = a.getLsbD i ∧ g.f0.getLsbD i = a.getLsbD i

/-- R45 (decision D5): `ADDR[7]` is dropped, so an address and the one with its top bit flipped give the same frames. -/
def Obligations.TopAddressBitIsDropped : Prop :=
  ∀ (a : Byte) (p : Payload) (o : WireOrder) (s : State),
    exec (.encWr (a ^^^ 0x80) p o) s = exec (.encWr a p o) s ∧ exec (.encRd (a ^^^ 0x80)) s = exec (.encRd a) s

/-- R44, R45: what `ENC_WR` drives decodes as a write frame to register `ADDR[6:0]`, what `ENC_RD` drives as a
well-formed read frame of it. -/
def Obligations.FramedCommandsDecodeToTheirRegister : Prop :=
  ∀ (a : Byte) (p : Payload) (o : WireOrder) (s s' : State),
    ∃ f g, frameOf (exec (.encWr a p o) s) = some f ∧ frameOf (exec (.encRd a) s') = some g ∧
      decode (.command [f.f0, f.f1, f.f2]) = .instr (.writeFrame (BitVec.ofNat 7 a.toNat) f.f1 f.f2) ∧
      decode (.command [g.f0, g.f1, g.f2]) = .instr (.readFrame (BitVec.ofNat 7 a.toNat) 0 0)

/-- R59. For every address, payload and order, and every byte in front, decoding the two data bytes `ENC_WR` put out,
under the same order, gives the payload back. -/
def Obligations.DecodingAnEchoGivesThePayload : Prop :=
  ∀ (a x : Byte) (p : Payload) (o : WireOrder) (s s' : State),
    ∃ f, frameOf (exec (.encWr a p o) s) = some f ∧ payloadOf (exec (.decRd ⟨x, f.f1, f.f2⟩ o) s') = some p

/-- R32. Which half of a 16-bit value the wire carries first, for each combination of the two orders: packing the value
under `VORD`, then framing it under `ORDER`. -/
def Obligations.WireCarriesTheValueInTableOrder : Prop :=
  ∀ (v : Word16) (a : Byte) (o : ValueOrder) (w : WireOrder) (s s' : State),
    ∃ q f, payloadOf (exec (expandPseudo (.pack v o)) s) = some q ∧ frameOf (exec (.encWr a q w) s') = some f ∧
      ((o = .little ∧ w = .direct) ∨ (o = .big ∧ w = .swapped) →
        f.f1.toNat = v.toNat % 256 ∧ f.f2.toNat = v.toNat / 256) ∧
      ((o = .little ∧ w = .swapped) ∨ (o = .big ∧ w = .direct) →
        f.f1.toNat = v.toNat / 256 ∧ f.f2.toNat = v.toNat % 256)

/-! ### Laws of the bitfield operations (R63) -/

/-- R63 (a) and (c): extracting the range just inserted gives the value, and inserting what is there already changes
nothing. -/
def Obligations.InsertAndExtractAreInverse : Prop :=
  ∀ (p : Payload) (o : ValueOrder) (lo hi : BitVec 4) (x : Word16) (s s' : State), lo ≤ hi →
    (x.toNat < 2 ^ (hi.toNat - lo.toNat + 1) →
      ∃ q, payloadOf (exec (.bfIns p o lo hi x) s) = some q ∧ fieldOf (exec (.bfExt q o lo hi) s') = some x) ∧
    ∃ v, fieldOf (exec (.bfExt p o lo hi) s) = some v ∧ payloadOf (exec (.bfIns p o lo hi v) s') = some p

/-- R63 (b): an insertion leaves every disjoint range as it was. -/
def Obligations.InsertKeepsDisjointRanges : Prop :=
  ∀ (p : Payload) (o : ValueOrder) (lo hi lo2 hi2 : BitVec 4) (x : Word16) (s s' : State), lo ≤ hi → lo2 ≤ hi2 →
    (hi < lo2 ∨ hi2 < lo) → x.toNat < 2 ^ (hi.toNat - lo.toNat + 1) →
    ∃ q v, payloadOf (exec (.bfIns p o lo hi x) s) = some q ∧ fieldOf (exec (.bfExt q o lo2 hi2) s') = some v ∧
      fieldOf (exec (.bfExt p o lo2 hi2) s') = some v

/-- R63 (d): two insertions into disjoint ranges commute. -/
def Obligations.DisjointInsertsCommute : Prop :=
  ∀ (p : Payload) (o : ValueOrder) (lo hi lo2 hi2 : BitVec 4) (x y : Word16) (s : State), lo ≤ hi → lo2 ≤ hi2 →
    (hi < lo2 ∨ hi2 < lo) → x.toNat < 2 ^ (hi.toNat - lo.toNat + 1) → y.toNat < 2 ^ (hi2.toNat - lo2.toNat + 1) →
    ∃ q1 q2 q, payloadOf (exec (.bfIns p o lo hi x) s) = some q1 ∧
      payloadOf (exec (.bfIns p o lo2 hi2 y) s) = some q2 ∧
      payloadOf (exec (.bfIns q1 o lo2 hi2 y) s) = some q ∧ payloadOf (exec (.bfIns q2 o lo hi x) s) = some q

/-- R54 (decision D20): what the pseudo-instructions give. `VALUE` is the payload's value, `GETB` one bit of it,
`SETB` and `CLRB` set and clear that bit alone, and `PACK` gives the payload of a value. -/
def Obligations.PseudoInstructionsGiveTheirResult : Prop :=
  ∀ (p : Payload) (v : Word16) (o : ValueOrder) (n : BitVec 4) (s : State),
    fieldOf (exec (expandPseudo (.value p o)) s) = some (BitVec.ofNat 16 (valueNat p o)) ∧
    fieldOf (exec (expandPseudo (.getb p o n)) s) = some (BitVec.ofNat 16 (valueNat p o / 2 ^ n.toNat % 2)) ∧
    (∃ q, payloadOf (exec (expandPseudo (.setb p o n)) s) = some q ∧
      ∀ i, (valueNat q o).testBit i = (decide (i = n.toNat) || (valueNat p o).testBit i)) ∧
    (∃ q, payloadOf (exec (expandPseudo (.clrb p o n)) s) = some q ∧
      ∀ i, (valueNat q o).testBit i = (!decide (i = n.toNat) && (valueNat p o).testBit i)) ∧
    ∃ q, payloadOf (exec (expandPseudo (.pack v o)) s) = some q ∧ valueNat q o = v.toNat

/-! ### Invariants and rules of the whole machine -/

/-- Every step keeps the invariant (R16, R27, R69, R70, R78, R84): canonical memory, registers known whole, outputs that
one operation can drive, transactions that ended as their kind can, no `DigitalError`, and an operation under way only
on a Live host and without a result (log entry 18). -/
def Obligations.EveryStepKeepsTheInvariant : Prop :=
  ∀ s t : State, MachineInv s → step s = .next t → MachineInv t

/-- The machine after reset meets the invariant. -/
def Obligations.ResetMeetsTheInvariant : Prop := MachineInv State.reset

/-- R77, R84: whatever is presented, no step changes the enable pin's level, and none produces a `DigitalError`. -/
def Obligations.NoStepDrivesThePin : Prop :=
  ∀ s t : State, step s = .next t →
    t.pinHigh = s.pinHigh ∧ (notDigital s.result = true → notDigital t.result = true)

/-- R26, R31: no step changes the configuration: `REGMAP` with every register's orders, and the other parameters. -/
def Obligations.NoStepChangesTheConfiguration : Prop :=
  ∀ s t : State, step s = .next t → t.cfg = s.cfg

/-- R38, R86: transactions issued stay issued, in order: every step's log extends the log before it. -/
def Obligations.TheLogOnlyGrows : Prop := ∀ s t : State, step s = .next t → s.log <+: t.log

/-- R69 (decision D26): there is no way out of `Destroyed`. -/
def Obligations.DestroyedIsFinal : Prop :=
  ∀ s t : State, s.lifecycle = .destroyed → step s = .next t → t.lifecycle = .destroyed

/-- R23, R87 (decision D23): a step that changes the lifecycle ran `NEW` or `DESTROY`; in particular the host stays
`Live` after any error. -/
def Obligations.OnlyNewAndDestroyChangeTheLifecycle : Prop :=
  ∀ s t : State, step s = .next t → t.lifecycle ≠ s.lifecycle →
    (∃ a b rest, s.todo = .call (.new a b) :: rest) ∨ ∃ rest, s.todo = .call .destroy :: rest

/-- R69, R79 (decision D26): before `NEW` and after `DESTROY` every host operation but `NEW` is refused as `NotLive`, the
bare primitives and so the command frames among them (log entry 3), `NEW` itself is refused after `DESTROY`, and no step
issues a transaction. -/
def Obligations.HostOperationsAreRefusedUnlessLive : Prop :=
  (∀ (c : HostCall) (s : State), needsLive c = true → isLive s = false → hostCall c s = .refused (.notLive c)) ∧
  (∀ (a : BitVec 7) (d e : Byte) (s : State), isLive s = false →
    exec (.writeFrame a d e) s = .refused (.notLive (.xwrite ⟨BitVec.ofNat 8 a.toNat, d, e⟩)) ∧
    exec (.readFrame a d e) s = .refused (.notLive (.xfer ⟨BitVec.ofNat 8 (128 + a.toNat), d, e⟩))) ∧
  (∀ (a b : Nat) (s : State), s.lifecycle = .destroyed → hostCall (.new a b) s = .refused (.notLive (.new a b))) ∧
  ∀ s t : State, isLive s = false → step s = .next t → t.log = s.log

/-! ### Steps -/

/-- R15, R47, as the model has them run: against a well-formed map with no operation under way, a step whose next thing
presented decodes to an instruction is that instruction's meaning, in the state with that thing taken off. The model's
own choices: the list presented and its head (log entry 1), one block operation a step (log entry 21), a frame as a
step (log entry 3). -/
def Obligations.StepRunsThePresentedInstruction : Prop :=
  ∀ (e : Encoded) (rest : List Presented) (i : Instr) (s : State), RegmapWf s.cfg.regmap → s.active = none →
    s.todo = .instr e :: rest → decode e = .instr i → step s = exec i { s with todo := rest }

/-- R38, R66, R106, as the model has them run: against a well-formed map, a step whose next thing presented is a host
operation is that operation, in the state with it taken off; one with an operation under way goes on with that, whatever
is presented. The model's own choices: the list presented and its head (log entry 1), no output left driven (log entry
2), a step for each transaction (log entry 18). -/
def Obligations.StepRunsTheHostOperation : Prop :=
  (∀ (c : HostCall) (rest : List Presented) (s : State), RegmapWf s.cfg.regmap → s.active = none →
    s.todo = .call c :: rest → step s = hostCall c { s with todo := rest, out := .undriven }) ∧
  ∀ (a : ActiveCall) (s : State), RegmapWf s.cfg.regmap → s.active = some a →
    step s = resumeCall a { s with active := none, out := .undriven }

/-- R19, R98 (decision D17): against a map that fails a check no step runs, and the refusal names the check. -/
def Obligations.IllFormedMapRefusesEveryStep : Prop :=
  ∀ (c : RegmapCheck) (s : State), regmapProblem s.cfg.regmap = some c → step s = .refused (.badRegmap c)

/-- R26 (idling is the model's choice, log entry 1): with nothing presented and no operation under way a step drives no
output and changes nothing else. -/
def Obligations.NothingPresentedDrivesNothing : Prop :=
  ∀ s : State, RegmapWf s.cfg.regmap → s.active = none → s.todo = [] → step s = .next { s with out := .undriven }

/-! ### The host's operations -/

/-- R67: `NEW` stores both handles and succeeds, with no transaction and no pin change (before any `DESTROY`, after which
R69 refuses it). That it does so on a Live host too, replacing the handles, is the model's choice (log entry 10). -/
def Obligations.NewStoresBothHandles : Prop :=
  ∀ (a b : Nat) (s : State), s.lifecycle ≠ .destroyed →
    hostCall (.new a b) s = .next { s with lifecycle := .live a b, result := some .ok }

/-- R68. `DESTROY` gives back exactly the handles held, and so, after `NEW`, the very ones `NEW` was given; it ends the
lifecycle, with no transaction and nothing else changed. -/
def Obligations.DestroyReturnsTheHandles : Prop :=
  ∀ (a b : Nat) (s : State),
    (s.lifecycle = .live a b →
      hostCall .destroy s = .next { s with lifecycle := .destroyed, result := some (.handles a b) }) ∧
    ∀ t, hostCall (.new a b) s = .next t →
      hostCall .destroy t = .next { s with lifecycle := .destroyed, result := some (.handles a b) }

/-- R70 (the register must be in `REGMAP`, decision D33): a raw write issues exactly one write transaction, of the frame
with the payload in the register's wire order, captures no response, and ends in OK or the transport's error. -/
def Obligations.WriteRawSendsTheRegistersFrame : Prop :=
  ∀ (addr : Byte) (p : Payload) (reg : RegDesc) (s : State), isLive s = true →
    findReg s.cfg.regmap addr = some reg → s.device.hangs = false →
    ∃ t f, hostCall (.writeRaw addr p) s = .next t ∧ isOneWrite s t f ∧ t.response = none ∧ f.f0 = addr &&& 0x7F ∧
      (reg.wireOrder = .direct → f.f1 = p.p0 ∧ f.f2 = p.p1) ∧
      (reg.wireOrder = .swapped → f.f1 = p.p1 ∧ f.f2 = p.p0)

/-- R72 (the register must be in `REGMAP`, decision D33): a register read issues exactly one transfer, of the read frame
with zero data bytes, and ends with the response's payload in the register's wire order, or the transport's error. -/
def Obligations.ReadRegDecodesTheResponse : Prop :=
  ∀ (addr : Byte) (reg : RegDesc) (s : State), isLive s = true →
    findReg s.cfg.regmap addr = some reg → s.device.hangs = false →
    ∃ t, hostCall (.readReg addr) s = .next t ∧ sameHost s t ∧
      ((∃ r p, t.log = s.log ++ [⟨.transfer, ⟨addr ||| 0x80, 0x00, 0x00⟩, .received r⟩] ∧
          t.result = some (.payload p) ∧
          (reg.wireOrder = .direct → p = ⟨r.f1, r.f2⟩) ∧ (reg.wireOrder = .swapped → p = ⟨r.f2, r.f1⟩)) ∨
       ∃ x, t.log = s.log ++ [⟨.transfer, ⟨addr ||| 0x80, 0x00, 0x00⟩, .failed x⟩] ∧
          t.result = some (.transportError x))

/-- R62, R73: reading a named field ends with the field of the payload read, a bool as whether its bit is set, or with the
transport's error; one transfer either way. -/
def Obligations.ReadFieldGivesTheFieldOfThePayload : Prop :=
  ∀ (addr : Byte) (name : String) (reg : RegDesc) (f : FieldDesc) (s : State), isLive s = true →
    RegmapWf s.cfg.regmap → findReg s.cfg.regmap addr = some reg → findField reg.fields name = some f →
    s.device.hangs = false →
    ∃ t, hostCall (.readField addr name) s = .next t ∧ sameHost s t ∧
      ((∃ r p, t.log = s.log ++ [⟨.transfer, ⟨addr ||| 0x80, 0x00, 0x00⟩, .received r⟩] ∧
          (reg.wireOrder = .direct → p = ⟨r.f1, r.f2⟩) ∧ (reg.wireOrder = .swapped → p = ⟨r.f2, r.f1⟩) ∧
          (f.kind = .bool → t.result = some (.bool ((valueNat p reg.byteOrder).testBit f.lo))) ∧
          (f.kind = .unsigned →
            t.result = some (.unsigned (BitVec.ofNat 16 (bitsNat (valueNat p reg.byteOrder) f.lo f.hi))))) ∨
       ∃ x, t.log = s.log ++ [⟨.transfer, ⟨addr ||| 0x80, 0x00, 0x00⟩, .failed x⟩] ∧
          t.result = some (.transportError x))

/-- R59, R70, R72 against ECHO (decision D19): what a raw write sent, a read of the same register returns, and a read of a
register at another 7-bit address returns what it would have returned before the write. -/
def Obligations.EchoReadsBackWhatWasWritten : Prop :=
  ∀ (addr : Byte) (p : Payload) (s t : State), s.device = .echo → hostCall (.writeRaw addr p) s = .next t →
    (∃ u, hostCall (.readReg addr) t = .next u ∧ u.result = some (.payload p)) ∧
    ∀ (b : Byte) (u : State), b &&& 0x7F ≠ addr &&& 0x7F → hostCall (.readReg b) s = .next u →
      ∃ u', hostCall (.readReg b) t = .next u' ∧ u'.result = u.result

/-- R74, R86 on the example map, under either wire order of register 0 (D8) and either default of unset fields (D32):
`RESET` issues the write of 0x4022, and, unless that failed, the write of 0x4020, and nothing else; it ends in OK or in
the first transport error. Each write is a step of its own (R106, log entry 18): between them nothing is presented and
`RESET` has no result, and a transport that never answers the second leaves the first performed. -/
def Obligations.ResetIsTheFixedPulse : Prop :=
  ∀ (o : WireOrder) (d : UnsetDefault) (rest : List Presented) (s : State),
    s.cfg = { exampleConfig o with unsetDefault := d } → isLive s = true → s.device.hangs = false →
    s.active = none → s.todo = .call .reset :: rest →
    ∃ t f g, step s = .next t ∧
      (o = .swapped → f = ⟨0x00, 0x40, 0x22⟩ ∧ g = ⟨0x00, 0x40, 0x20⟩) ∧
      (o = .direct → f = ⟨0x00, 0x22, 0x40⟩ ∧ g = ⟨0x00, 0x20, 0x40⟩) ∧
      ((∃ x, sameHost { s with todo := rest } t ∧ t.log = s.log ++ [⟨.write, f, .failed x⟩] ∧
          t.result = some (.transportError x)) ∨
       (sameHost { s with todo := rest, active := some .resetSecondWrite } t ∧
          t.log = s.log ++ [⟨.write, f, .sent⟩] ∧ t.result = none ∧ t.device = s.device.rest ∧
          (t.device.hangs = true → step t = .fault (.transportStuck .write g)) ∧
          (t.device.hangs = false → ∃ u, step t = .next u ∧ isOneWrite { t with active := none } u g)))

/-- R83, R86: if the transport fails the next transaction with `e`, whatever is assumed of the device, every operation
that issues one ends with exactly that error, that one failed transaction is all it issued, and the host stays as it was.
That nothing is then known of any of the device's registers, not only of the one accessed (R35, D25), is the model's
choice (log entry 7). -/
def Obligations.TransportErrorEndsTheOperation : Prop :=
  ∀ (c : HostCall) (e : Nat) (s t : State), RegmapWf s.cfg.regmap →
    s.device.failure s.draws = some e → (∀ a b, c ≠ .new a b) → c ≠ .destroy → hostCall c s = .next t →
    t.result = some (.transportError e) ∧ sameHost s t ∧ (∃ k f, t.log = s.log ++ [⟨k, f, .failed e⟩]) ∧
    ∀ a, memRead t.mem a = none

/-- R65. A field-level write issues one transaction, a write, and the frame it sends is the same from any two states with
the same configuration, whatever was read or written before and whatever the device holds. -/
def Obligations.FieldWritesReadNothing : Prop :=
  ∀ (addr : Byte) (xs : List Setting) (s s' t t' : State), RegmapWf s.cfg.regmap → s'.cfg = s.cfg →
    hostCall (.writeFields addr xs) s = .next t → hostCall (.writeFields addr xs) s' = .next t' →
    ∃ f a a', t.log = s.log ++ [⟨.write, f, a⟩] ∧ t'.log = s'.log ++ [⟨.write, f, a'⟩]

/-- R64, R99, under either `UNSET_FIELD_DEFAULT` (decision D32): settings of a well-formed map's register that fit their
fields assemble to a payload in which, of the bits outside the fields set, every one keeps its bit of the reset value
under `RESET_VALUE`, and under `ZERO` every one in a named field is 0 and every one in no field keeps its bit of the
reset value. -/
def Obligations.BitsNotSetTakeTheirDefault : Prop :=
  ∀ (m : Regmap) (reg : RegDesc) (fs : List (FieldDesc × Word16)), RegmapWf m → reg ∈ m →
    (∀ x ∈ fs, x.1 ∈ reg.fields ∧ x.2.toNat < 2 ^ (x.1.hi - x.1.lo + 1)) →
    (∃ p, assemble .resetValue reg fs = .ok p ∧
      ∀ i, (∀ x ∈ fs, ¬ (x.1.lo ≤ i ∧ i ≤ x.1.hi)) →
        (valueNat p reg.byteOrder).testBit i = (valueNat reg.resetValue reg.byteOrder).testBit i) ∧
    ∃ p, assemble .zero reg fs = .ok p ∧
      ∀ i, (∀ x ∈ fs, ¬ (x.1.lo ≤ i ∧ i ≤ x.1.hi)) →
        ((∃ f ∈ reg.fields, f.lo ≤ i ∧ i ≤ f.hi) → (valueNat p reg.byteOrder).testBit i = false) ∧
        ((∀ f ∈ reg.fields, ¬ (f.lo ≤ i ∧ i ≤ f.hi)) →
          (valueNat p reg.byteOrder).testBit i = (valueNat reg.resetValue reg.byteOrder).testBit i)

/-- R64 (a field set twice takes the later value, decision D31), under either default of unset fields: the last setting
of a field is what the assembled payload holds in it. -/
def Obligations.TheLastSettingOfAFieldIsWritten : Prop :=
  ∀ (m : Regmap) (reg : RegDesc) (d : UnsetDefault) (fs gs : List (FieldDesc × Word16)) (f : FieldDesc) (v : Word16),
    RegmapWf m → reg ∈ m → f ∈ reg.fields → v.toNat < 2 ^ (f.hi - f.lo + 1) →
    (∀ x ∈ fs ++ gs, x.1 ∈ reg.fields ∧ x.2.toNat < 2 ^ (x.1.hi - x.1.lo + 1)) → (∀ x ∈ gs, x.1 ≠ f) →
    ∃ p, assemble d reg (fs ++ (f, v) :: gs) = .ok p ∧ bitsNat (valueNat p reg.byteOrder) f.lo f.hi = v.toNat

/-- R64: the order of setting different fields does not change the payload. -/
def Obligations.SettingOrderDoesNotMatter : Prop :=
  ∀ (m : Regmap) (reg : RegDesc) (d : UnsetDefault) (fs gs : List (FieldDesc × Word16)), RegmapWf m → reg ∈ m →
    (∀ x ∈ fs, x.1 ∈ reg.fields ∧ x.2.toNat < 2 ^ (x.1.hi - x.1.lo + 1)) → (fs.map Prod.fst).Nodup → fs.Perm gs →
    assemble d reg gs = assemble d reg fs

/-- R64, R71, under either default of unset fields (D32): a field-level write to a ReadWrite register of a well-formed map,
whose settings fit its fields, issues one write, of the payload assembled from the settings in the register's wire order,
and ends in OK or the transport's error. On the example map under `RESET_VALUE`, setting `powerdown` alone so sends
0x4071 (R71's example, R99), under either wire order of register 0 (D8). -/
def Obligations.FieldWritesSendTheAssembledPayload : Prop :=
  (∀ (addr : Byte) (reg : RegDesc) (fs : List (FieldDesc × Word16)) (s : State), RegmapWf s.cfg.regmap →
    isLive s = true → findReg s.cfg.regmap addr = some reg → reg.access = .readWrite → s.device.hangs = false →
    (∀ x ∈ fs, x.1 ∈ reg.fields ∧ x.2.toNat < 2 ^ (x.1.hi - x.1.lo + 1)) →
    ∃ t p f, hostCall (.writeFields addr (fs.map fun x => ⟨x.1.name, x.2⟩)) s = .next t ∧
      assemble s.cfg.unsetDefault reg fs = .ok p ∧ isOneWrite s t f ∧ f.f0 = addr &&& 0x7F ∧
      (reg.wireOrder = .direct → f.f1 = p.p0 ∧ f.f2 = p.p1) ∧
      (reg.wireOrder = .swapped → f.f1 = p.p1 ∧ f.f2 = p.p0)) ∧
  ∀ (o : WireOrder) (s : State), s.cfg = exampleConfig o → isLive s = true → s.device.hangs = false →
    ∃ t f, hostCall (.writeFields 0 [⟨"powerdown", 1⟩]) s = .next t ∧ isOneWrite s t f ∧
      (o = .swapped → f = ⟨0x00, 0x40, 0x71⟩) ∧ (o = .direct → f = ⟨0x00, 0x71, 0x40⟩)

/-- R71, R79, R85 (decisions D11, D13, D16): a field-level write to a ReadOnly register is refused whatever it sets; one to a
ReadWrite register, all of whose names exist, that sets a value too wide for its field is refused as that; neither
issues a transaction. -/
def Obligations.FieldWritesAreRefusedBeforeTheBus : Prop :=
  ∀ (addr : Byte) (xs : List Setting) (reg : RegDesc) (s : State), isLive s = true →
    findReg s.cfg.regmap addr = some reg →
    (reg.access = .readOnly → hostCall (.writeFields addr xs) s = .refused (.readOnlyWrite addr)) ∧
    (reg.access = .readWrite → (∀ x ∈ xs, (findField reg.fields x.field).isSome = true) →
      (∃ x ∈ xs, ∃ f, findField reg.fields x.field = some f ∧ 2 ^ (f.hi - f.lo + 1) ≤ x.value.toNat) →
      ∃ n v, hostCall (.writeFields addr xs) s = .refused (.fieldValueTooWide n v))

/-- R70, R72, R79 (decision D33): an access to an address not in `REGMAP` is refused, with no transaction. -/
def Obligations.UnknownAddressesAreRefused : Prop :=
  ∀ (addr : Byte) (p : Payload) (xs : List Setting) (n : String) (s : State), isLive s = true →
    findReg s.cfg.regmap addr = none →
    hostCall (.writeRaw addr p) s = .refused (.unknownAddress addr) ∧
    hostCall (.readReg addr) s = .refused (.unknownAddress addr) ∧
    hostCall (.writeFields addr xs) s = .refused (.unknownAddress addr) ∧
    hostCall (.readField addr n) s = .refused (.unknownAddress addr)

/-! ### The temperature -/

/-- R75, R76 on the example map (decision D14): whatever the device answers, `RDTEMP` issues one transfer of
`[0xCC, 0, 0]` and ends with the binary32 pattern, sign, exponent and fraction, of R76's result for the low 11 bits of
the response's big-endian value, which is finite, or with the transport's error. -/
def Obligations.RdTempConvertsTheElevenBitField : Prop :=
  ∀ (o : WireOrder) (s : State), s.cfg = exampleConfig o → isLive s = true → s.device.hangs = false →
    ∃ t, hostCall .readTemp s = .next t ∧ sameHost s t ∧
      ((∃ r b neg mag, t.log = s.log ++ [⟨.transfer, ⟨0xCC, 0x00, 0x00⟩, .received r⟩] ∧
          t.result = some (.temperature b) ∧
          tempValue tempSlope tempOffset ((r.f1.toNat * 256 + r.f2.toNat) % 2048) = .fin neg mag ∧
          patternIs b neg mag) ∨
       ∃ x, t.log = s.log ++ [⟨.transfer, ⟨0xCC, 0x00, 0x00⟩, .failed x⟩] ∧ t.result = some (.transportError x))

/-- R76 (decision D14): for every raw value 0..2047 the result is finite and within 2^-13 of the exact
`(17 raw - 8300) / 20`. -/
def Obligations.TemperatureIsCloseToTheExactValue : Prop :=
  ∀ raw : Nat, raw ≤ 2047 →
    ∃ v, signedMag (tempValue tempSlope tempOffset raw) = some v ∧
      20 * v - (17 * (raw : Int) - 8300) * 2 ^ 149 ≤ 20 * 2 ^ 136 ∧
      (17 * (raw : Int) - 8300) * 2 ^ 149 - 20 * v ≤ 20 * 2 ^ 136

/-- R76 (decision D14), as 95_test_vectors.md section 2.9 notes: the result rises with the raw value and is never 0; the
sign changes between 488 and 489. -/
def Obligations.TemperatureChangesSignAfter488 : Prop :=
  ∀ raw : Nat, raw ≤ 2047 →
    ∃ v, signedMag (tempValue tempSlope tempOffset raw) = some v ∧ (raw ≤ 488 → v < 0) ∧ (489 ≤ raw → 0 < v) ∧
      ∀ raw' w, raw' < raw → signedMag (tempValue tempSlope tempOffset raw') = some w → w < v

/-- R76's rounding (round to nearest even, decision D14), on every magnitude: the result has 24 significant bits (exactly,
where bits are taken off), is nearest, and a tie goes to the even one. Its pattern has the sign, and the exponent and
fraction of that magnitude; at 2^128 and above it is the infinity of the sign. -/
def Obligations.RoundingIsToNearestEven : Prop :=
  ∀ m : Nat,
    (∃ q, roundMag m = q * 2 ^ excessBits m ∧ q ≤ 2 ^ 24 ∧ (0 < excessBits m → 2 ^ 23 ≤ q) ∧
      2 * roundMag m ≤ 2 * m + 2 ^ excessBits m ∧ 2 * m ≤ 2 * roundMag m + 2 ^ excessBits m ∧
      (0 < excessBits m → 2 * roundMag m = 2 * m + 2 ^ excessBits m ∨ 2 * m = 2 * roundMag m + 2 ^ excessBits m →
        q % 2 = 0)) ∧
    ∀ neg : Bool,
      (roundMag m < 2 ^ 128 * 2 ^ 149 → patternIs (encode32 (round32 neg m)) neg (roundMag m)) ∧
      (2 ^ 128 * 2 ^ 149 ≤ roundMag m → patternIsInf (encode32 (round32 neg m)) neg)
end

