-- ==== Sys2Proof/Laws/Bits.lean ====
section
/-! SUPPORT. What the bit operations are as numbers and bit by bit: payload values (R11), range masks (R49),
extraction (R60) and insertion (R61). -/

namespace Sys2Proof.Machine

/-! ### Payloads and values -/

theorem cat_toNat (a b : Byte) : (cat a b).toNat = a.toNat * 256 + b.toNat := by
  refine (BitVec.toNat_append a b).trans ?_
  rw [← Nat.shiftLeft_add_eq_or_of_lt b.isLt, Nat.shiftLeft_eq]

theorem getLsbD_cat (a b : Byte) (i : Nat) :
    (cat a b).getLsbD i = if i < 8 then b.getLsbD i else a.getLsbD (i - 8) :=
  BitVec.getLsbD_append

/-- `cat` puts two bytes together and its halves give them back (R9). -/
theorem cat_halves (v : Word16) : cat (v.extractLsb' 8 8) (v.extractLsb' 0 8) = v := by
  refine BitVec.eq_of_getLsbD_eq fun i hi => ?_
  rw [getLsbD_cat]
  split
  · rename_i h; simp [h]
  · rename_i h
    have h8 : i - 8 < 8 := by omega
    have h9 : 8 + (i - 8) = i := by omega
    simp [h8, h9]

theorem cat_high (a b : Byte) : (cat a b).extractLsb' 8 8 = a := by
  refine BitVec.eq_of_getLsbD_eq fun i hi => ?_
  simp [getLsbD_cat, hi]

theorem cat_low (a b : Byte) : (cat a b).extractLsb' 0 8 = b := by
  refine BitVec.eq_of_getLsbD_eq fun i hi => ?_
  simp [getLsbD_cat, hi]

/-- `value` undoes `bytes` (R11). -/
@[simp] theorem value_bytes (v : Word16) (o : ValueOrder) : value (bytes v o) o = v := by
  cases o <;> exact cat_halves v

/-- `bytes` undoes `value` (R11). -/
@[simp] theorem bytes_value (p : Payload) (o : ValueOrder) : bytes (value p o) o = p := by
  cases o <;> simp [value, bytes, cat_high, cat_low]

/-! ### Ranges -/

theorem rangeWidth_le (lo hi : BitVec 4) : rangeWidth lo hi ≤ 16 := by
  have := hi.isLt
  unfold rangeWidth
  omega

theorem rangeWidth_pos (lo hi : BitVec 4) : 0 < rangeWidth lo hi := Nat.succ_pos _

theorem rangeMask_toNat (lo hi : BitVec 4) : (rangeMask lo hi).toNat = 2 ^ rangeWidth lo hi - 1 := by
  have hw := rangeWidth_le lo hi
  have h1 : 2 ^ rangeWidth lo hi ≤ 2 ^ 16 := Nat.pow_le_pow_right (by decide) hw
  have h0 : 0 < 2 ^ rangeWidth lo hi := Nat.two_pow_pos _
  simp only [rangeMask, BitVec.toNat_setWidth, BitVec.toNat_sub, BitVec.toNat_shiftLeft, BitVec.toNat_ofNat,
    Nat.shiftLeft_eq]
  omega

theorem getLsbD_rangeMask (lo hi : BitVec 4) (i : Nat) :
    (rangeMask lo hi).getLsbD i = decide (i < rangeWidth lo hi) := by
  rw [← BitVec.testBit_toNat, rangeMask_toNat, Nat.testBit_two_pow_sub_one]

/-! ### Extraction -/

theorem getLsbD_extractField (v : Word16) (lo hi : BitVec 4) (i : Nat) :
    (extractField v lo hi).getLsbD i = (v.getLsbD (lo.toNat + i) && decide (i < rangeWidth lo hi)) := by
  simp [extractField, getLsbD_rangeMask]

theorem extractField_toNat (v : Word16) (lo hi : BitVec 4) :
    (extractField v lo hi).toNat = v.toNat / 2 ^ lo.toNat % 2 ^ rangeWidth lo hi := by
  simp [extractField, rangeMask_toNat, Nat.and_two_pow_sub_one_eq_mod, Nat.shiftRight_eq_div_pow]

/-! ### Insertion -/

theorem getLsbD_insertField (v : Word16) (lo hi : BitVec 4) (x : Word16) (i : Nat) (h : i < 16) :
    (insertField v lo hi x).getLsbD i =
      ((v.getLsbD i && !(decide (lo.toNat ≤ i) && decide (i - lo.toNat < rangeWidth lo hi))) ||
        (decide (lo.toNat ≤ i) && x.getLsbD (i - lo.toNat))) := by
  rw [insertField, BitVec.getLsbD_or, BitVec.getLsbD_and, BitVec.getLsbD_not, BitVec.getLsbD_shiftLeft,
    BitVec.getLsbD_shiftLeft, getLsbD_rangeMask]
  by_cases hl : lo.toNat ≤ i
  · simp [h, hl, Nat.not_lt.mpr hl]
  · simp [h, hl, Nat.not_le.mp hl]

/-- A value that fits a field has no bit at or above its width (R82). -/
theorem valueError_eq_none (lo hi : BitVec 4) (x : Word16) :
    valueError lo hi x = none ↔ x.toNat < 2 ^ rangeWidth lo hi := by
  have key : x &&& ~~~ rangeMask lo hi = 0 ↔ x.toNat < 2 ^ rangeWidth lo hi := by
    constructor
    · intro h
      refine Nat.lt_pow_two_of_testBit _ fun i hi' => ?_
      have hb : (x &&& ~~~ rangeMask lo hi).getLsbD i = false := by rw [h]; exact BitVec.getLsbD_zero
      rw [BitVec.getLsbD_and, BitVec.getLsbD_not, getLsbD_rangeMask] at hb
      by_cases h16 : i < 16
      · rw [BitVec.testBit_toNat]
        simpa [h16, Nat.not_lt.mpr hi'] using hb
      · exact Nat.testBit_lt_two_pow (lt_of_lt_of_le x.isLt (Nat.pow_le_pow_right (by decide) (by omega)))
    · intro h
      ext i hi'
      have : decide (i < rangeWidth lo hi) = true ∨ x.toNat.testBit i = false := by
        by_cases hw : i < rangeWidth lo hi
        · exact .inl (by simpa using hw)
        · exact .inr (Nat.testBit_lt_two_pow (lt_of_lt_of_le h (Nat.pow_le_pow_right (by decide) (by omega))))
      rcases this with hw | hx
      · simp [← BitVec.getLsbD_eq_getElem, getLsbD_rangeMask, hw]
      · simp [← BitVec.getLsbD_eq_getElem, ← BitVec.testBit_toNat, hx]
  unfold valueError
  split <;> simp_all

theorem rangeError_eq_none (lo hi : BitVec 4) : rangeError lo hi = none ↔ lo ≤ hi := by
  unfold rangeError
  split <;> simp_all [BitVec.not_lt]

/-- When `BF_INS` raises nothing (R61, R81, R82). -/
theorem insertError_eq_none (lo hi : BitVec 4) (x : Word16) :
    insertError lo hi x = none ↔ lo ≤ hi ∧ x.toNat < 2 ^ rangeWidth lo hi := by
  unfold insertError
  split
  · rename_i e h
    constructor
    · intro h'; cases h'
    · intro h'; rw [(rangeError_eq_none lo hi).2 h'.1] at h; cases h
  · rename_i h
    rw [valueError_eq_none, ← rangeError_eq_none lo hi]
    exact ⟨fun h' => ⟨h, h'⟩, fun h' => h'.2⟩

/-- `BF_EXT` on a legal range. -/
theorem bfExtOutputs_legal {p : Payload} {o : ValueOrder} {lo hi : BitVec 4} (h : lo ≤ hi) :
    bfExtOutputs p o lo hi = .ofField (extractField (value p o) lo hi) := by
  simp [bfExtOutputs, (rangeError_eq_none lo hi).2 h]

/-- `BF_INS` on a legal range with a value that fits. -/
theorem bfInsPayload_legal {p : Payload} {o : ValueOrder} {lo hi : BitVec 4} {x : Word16} (h : lo ≤ hi)
    (hx : x.toNat < 2 ^ rangeWidth lo hi) :
    bfInsPayload p o lo hi x = .ok (bytes (insertField (value p o) lo hi x) o) := by
  simp [bfInsPayload, (insertError_eq_none lo hi x).2 ⟨h, hx⟩]

end Sys2Proof.Machine
end

