-- ==== Sys2Proof/Laws/Frames.lean ====
section
/-! SUPPORT. The bits of a frame: the direction bit and the address in byte 0 (R43, R45), and the 24-bit word. -/

namespace Sys2Proof

theorem getLsbD_commandByte0 (rw : BitVec 1) (a : BitVec 7) (i : Nat) :
    (commandByte0 rw a).getLsbD i = if i < 7 then a.getLsbD i else rw.getLsbD (i - 7) :=
  BitVec.getLsbD_append

/-- The direction bit of byte 0 (R43). -/
theorem commandByte0_direction (rw : BitVec 1) (a : BitVec 7) :
    (commandByte0 rw a).getLsbD 7 = rw.getLsbD 0 := by
  rw [getLsbD_commandByte0]
  rfl

/-- The direction bit of byte 0, as simp writes it. -/
@[simp] theorem commandByte0_bit7 (rw : BitVec 1) (a : BitVec 7) :
    (commandByte0 rw a)[7] = rw.getLsbD 0 := by
  rw [← BitVec.getLsbD_eq_getElem, commandByte0_direction]

/-- The address in byte 0 (R45). -/
@[simp] theorem commandByte0_address (rw : BitVec 1) (a : BitVec 7) :
    (commandByte0 rw a).extractLsb' 0 7 = a := by
  refine BitVec.eq_of_getLsbD_eq fun i hi => ?_
  simp [getLsbD_commandByte0, hi]

/-- Bit 23 of a frame's word is bit 7 of byte 0 (R43). -/
theorem frameWord_bit23 (f : Frame) : (frameWord f).getLsbD 23 = f.f0.getLsbD 7 := by
  show (f.f0 ++ f.f1 ++ f.f2).getLsbD 23 = _
  rw [BitVec.getLsbD_append, BitVec.getLsbD_append]
  rfl

/-- The mask of `RW` alone keeps bit 23 (R44). -/
theorem and_rwMask (w : BitVec 24) : w &&& 0x800000#24 = if w.getLsbD 23 then 0x800000#24 else 0#24 := by
  refine BitVec.eq_of_getLsbD_eq fun i hi => ?_
  rw [BitVec.getLsbD_and]
  by_cases h : i = 23
  · subst h
    cases w.getLsbD 23 <;> rfl
  · have : (0x800000#24).getLsbD i = false := by interval_cases i <;> first | rfl | exact absurd rfl h
    cases w.getLsbD 23 <;> simp [this]

end Sys2Proof
end

