-- ==== Sys2Proof/Laws/Memory.lean ====
section
/-! SUPPORT. The device's register space: a read after a write, and that every operation keeps the canonical form. -/

namespace Sys2Proof.Machine

@[simp] theorem memRead_nil (a : Nat) : memRead [] a = none := rfl

/-- A read after a write gives the byte written there and leaves every other cell. -/
theorem memRead_memWrite (m : Memory) (a : Nat) (b : Byte) (a' : Nat) :
    memRead (memWrite m a b) a' = if a' = a then some b else memRead m a' := by
  induction m with
  | nil => simp [memWrite, memRead, eq_comm]
  | cons c m ih =>
    obtain ⟨k, v⟩ := c
    by_cases he : a' = a
    · subst he
      simp only [memWrite]
      split
      · simp [memRead]
      · split <;> simp_all [memRead, eq_comm]
    · have he' : ¬ a = a' := fun h => he h.symm
      simp only [memWrite]
      split
      · simp [memRead, he']
      · split <;> simp_all [memRead]

/-- A register written whole (R27). -/
theorem memRead_regWrite (m : Memory) (reg : BitVec 7) (w1 w2 : Byte) (a : Nat) :
    memRead (regWrite m reg w1 w2) a =
      if a = 2 * reg.toNat + 1 then some w2 else if a = 2 * reg.toNat then some w1 else memRead m a := by
  simp [regWrite, memRead_memWrite, cellOf]

theorem mem_memWrite {m : Memory} {a : Nat} {b : Byte} {c : Host.Cell} (h : c ∈ memWrite m a b) :
    c = (a, b) ∨ c ∈ m := by
  induction m with
  | nil => simpa [memWrite] using h
  | cons d m ih =>
    simp only [memWrite] at h
    split at h
    · simpa using h
    · split at h
      · rcases List.mem_cons.1 h with h | h
        · exact .inl h
        · exact .inr (List.mem_cons_of_mem _ h)
      · rcases List.mem_cons.1 h with h | h
        · exact .inr (h ▸ List.mem_cons_self)
        · exact (ih h).imp id (List.mem_cons_of_mem _)

theorem memWrite_rising {m : Memory} (a : Nat) (b : Byte) (h : m.Pairwise (fun x y => x.1 < y.1)) :
    (memWrite m a b).Pairwise (fun x y => x.1 < y.1) := by
  induction m with
  | nil => simp [memWrite]
  | cons d m ih =>
    obtain ⟨k, v⟩ := d
    obtain ⟨hk, hm⟩ := List.pairwise_cons.1 h
    simp only [memWrite]
    split
    · rename_i hlt
      refine List.pairwise_cons.2 ⟨fun c hc => ?_, h⟩
      rcases List.mem_cons.1 hc with rfl | hc
      · exact hlt
      · exact lt_trans hlt (hk c hc)
    · split
      · rename_i h2
        subst h2
        exact List.pairwise_cons.2 ⟨hk, hm⟩
      · refine List.pairwise_cons.2 ⟨fun c hc => ?_, ih hm⟩
        rcases mem_memWrite hc with rfl | hc
        · show k < a
          omega
        · exact hk c hc

theorem memWf_iff (m : Memory) : memWf m = true ↔ m.Pairwise (fun x y => x.1 < y.1) ∧ ∀ c ∈ m, c.1 < 256 := by
  simp [memWf]

/-- A write to a cell of the space keeps the canonical form. -/
theorem memWf_memWrite {m : Memory} {a : Nat} (b : Byte) (h : memWf m = true) (ha : a < 256) :
    memWf (memWrite m a b) = true := by
  obtain ⟨h1, h2⟩ := (memWf_iff m).1 h
  refine (memWf_iff _).2 ⟨memWrite_rising a b h1, fun c hc => ?_⟩
  rcases mem_memWrite hc with rfl | hc
  · exact ha
  · exact h2 c hc

/-- Writing a register keeps the canonical form. -/
theorem memWf_regWrite {m : Memory} (reg : BitVec 7) (w1 w2 : Byte) (h : memWf m = true) :
    memWf (regWrite m reg w1 w2) = true := by
  have := reg.isLt
  exact memWf_memWrite _ (memWf_memWrite _ h (by simp only [cellOf]; omega)) (by simp only [cellOf]; omega)

/-- Whatever the device, a transaction keeps the canonical form. -/
theorem memWf_memAfter (d : Device) {m : Memory} (f : Frame) (h : memWf m = true) :
    memWf (d.memAfter m f) = true := by
  cases d with
  | echo =>
    simp only [Device.memAfter]
    split
    · exact h
    · exact memWf_regWrite _ _ _ h
  | unknown => rfl
  | script ls => rfl

theorem memWf_reset : memWf State.reset.mem = true := rfl

end Sys2Proof.Machine
end

