-- ==== Sys2Proof/Laws/State.lean ====
section
/-! SUPPORT. One lemma per field per update of the state, so that no later proof unfolds a record update. -/

namespace Sys2Proof.Machine

/-! ### Driving the output ports -/

@[simp] theorem drive_out (s : State) (o : Outputs) : (s.drive o).out = o := rfl
@[simp] theorem drive_todo (s : State) (o : Outputs) : (s.drive o).todo = s.todo := rfl
@[simp] theorem drive_active (s : State) (o : Outputs) : (s.drive o).active = s.active := rfl
@[simp] theorem drive_cfg (s : State) (o : Outputs) : (s.drive o).cfg = s.cfg := rfl
@[simp] theorem drive_lifecycle (s : State) (o : Outputs) : (s.drive o).lifecycle = s.lifecycle := rfl
@[simp] theorem drive_pinHigh (s : State) (o : Outputs) : (s.drive o).pinHigh = s.pinHigh := rfl
@[simp] theorem drive_mem (s : State) (o : Outputs) : (s.drive o).mem = s.mem := rfl
@[simp] theorem drive_device (s : State) (o : Outputs) : (s.drive o).device = s.device := rfl
@[simp] theorem drive_log (s : State) (o : Outputs) : (s.drive o).log = s.log := rfl
@[simp] theorem drive_response (s : State) (o : Outputs) : (s.drive o).response = s.response := rfl
@[simp] theorem drive_result (s : State) (o : Outputs) : (s.drive o).result = s.result := rfl
@[simp] theorem drive_draws (s : State) (o : Outputs) : (s.drive o).draws = s.draws := rfl

/-- Raising an error drives `ERR` and nothing else. -/
@[simp] theorem raise_eq (s : State) (e : BlockErr) : s.raise e = s.drive (.ofError e) := rfl

/-- Idling drives nothing. -/
@[simp] theorem idle_eq (s : State) : idle s = s.drive .undriven := rfl

/-! ### Ending a host operation -/

@[simp] theorem finish_out (s : State) (r : HostResult) : (s.finish r).out = s.out := rfl
@[simp] theorem finish_todo (s : State) (r : HostResult) : (s.finish r).todo = s.todo := rfl
@[simp] theorem finish_active (s : State) (r : HostResult) : (s.finish r).active = s.active := rfl
@[simp] theorem finish_cfg (s : State) (r : HostResult) : (s.finish r).cfg = s.cfg := rfl
@[simp] theorem finish_lifecycle (s : State) (r : HostResult) : (s.finish r).lifecycle = s.lifecycle := rfl
@[simp] theorem finish_pinHigh (s : State) (r : HostResult) : (s.finish r).pinHigh = s.pinHigh := rfl
@[simp] theorem finish_mem (s : State) (r : HostResult) : (s.finish r).mem = s.mem := rfl
@[simp] theorem finish_device (s : State) (r : HostResult) : (s.finish r).device = s.device := rfl
@[simp] theorem finish_log (s : State) (r : HostResult) : (s.finish r).log = s.log := rfl
@[simp] theorem finish_response (s : State) (r : HostResult) : (s.finish r).response = s.response := rfl
@[simp] theorem finish_result (s : State) (r : HostResult) : (s.finish r).result = some r := rfl
@[simp] theorem finish_draws (s : State) (r : HostResult) : (s.finish r).draws = s.draws := rfl

/-! ### After a transaction -/

section
variable (s : State) (k : TxKind) (f : Frame)

@[simp] theorem afterTransaction_out : (s.afterTransaction k f).out = .undriven := rfl
@[simp] theorem afterTransaction_todo : (s.afterTransaction k f).todo = s.todo := rfl
@[simp] theorem afterTransaction_active : (s.afterTransaction k f).active = s.active := rfl
@[simp] theorem afterTransaction_cfg : (s.afterTransaction k f).cfg = s.cfg := rfl
@[simp] theorem afterTransaction_lifecycle : (s.afterTransaction k f).lifecycle = s.lifecycle := rfl
@[simp] theorem afterTransaction_pinHigh : (s.afterTransaction k f).pinHigh = s.pinHigh := rfl
@[simp] theorem afterTransaction_mem : (s.afterTransaction k f).mem = s.device.memAfter s.mem f := rfl
@[simp] theorem afterTransaction_device : (s.afterTransaction k f).device = s.device.rest := rfl
@[simp] theorem afterTransaction_log : (s.afterTransaction k f).log = s.log ++ [⟨k, f, s.answer k f⟩] := rfl
@[simp] theorem afterTransaction_response : (s.afterTransaction k f).response = (s.answer k f).captured := rfl
@[simp] theorem afterTransaction_result : (s.afterTransaction k f).result = some (s.answer k f).result := rfl
@[simp] theorem afterTransaction_draws : (s.afterTransaction k f).draws = s.draws + 1 := rfl

end

/-! ### Output records -/

@[simp] theorem ofFrame_frameOut (f : Frame) : (Outputs.ofFrame f).frameOut = some f := rfl
@[simp] theorem ofPayload_payOut (p : Payload) : (Outputs.ofPayload p).payOut = some p := rfl
@[simp] theorem ofField_fieldOut (v : Word16) : (Outputs.ofField v).fieldOut = some v := rfl
@[simp] theorem ofError_err (e : BlockErr) : (Outputs.ofError e).err = some e := rfl

@[simp] theorem takeFrame_encWr (a : Byte) (p : Payload) (o : WireOrder) (k : Frame → Result) :
    (encWrOutputs a p o).takeFrame k = k (writeCommand a p o) := rfl
@[simp] theorem takeFrame_encRd (a : Byte) (k : Frame → Result) :
    (encRdOutputs a).takeFrame k = k (readCommand a) := rfl
@[simp] theorem takePayload_decRd (r : Frame) (o : WireOrder) (k : Payload → Result) :
    (decRdOutputs r o).takePayload k = k (responsePayload r o) := rfl

end Sys2Proof.Machine
end

