-- ==== Sys2Proof/Laws/Ops.lean ====
section
/-! SUPPORT. What each shared operation can do, once: transactions, sequencing, looking a register up. -/

namespace Sys2Proof.Machine

/-- A transaction that is answered is one step; otherwise the host is stuck (R90). -/
theorem transact_of_answered {s : State} (h : s.device.hangs = false) (k : TxKind) (f : Frame) :
    transact k f s = .next (s.afterTransaction k f) := by
  simp [transact, h]

theorem transact_of_stuck {s : State} (h : s.device.hangs = true) (k : TxKind) (f : Frame) :
    transact k f s = .fault (.transportStuck k f) := by
  simp [transact, h]

/-- All a transaction can do, if it answers a next state. -/
theorem transact_next {k : TxKind} {f : Frame} {s t : State} (h : transact k f s = .next t) :
    s.device.hangs = false ∧ t = s.afterTransaction k f := by
  unfold transact at h
  split at h
  · cases h
  · exact ⟨by simp_all, by cases h; rfl⟩

/-- How a transaction can end (R10, R83). -/
theorem answer_cases (s : State) (k : TxKind) (f : Frame) :
    (∃ e, s.device.failure s.draws = some e ∧ s.answer k f = .failed e) ∨
    (s.device.failure s.draws = none ∧ k = .write ∧ s.answer k f = .sent) ∨
    (s.device.failure s.draws = none ∧ k = .transfer ∧
      s.answer k f = .received (s.device.reply s.mem s.draws f)) := by
  unfold State.answer
  cases s.device.failure s.draws with
  | some e => exact .inl ⟨e, rfl, rfl⟩
  | none => cases k with
    | write => exact .inr (.inl ⟨rfl, rfl, rfl⟩)
    | transfer => exact .inr (.inr ⟨rfl, rfl, rfl⟩)

@[simp] theorem andThen_next (s : State) (k : State → Result) : andThen (.next s) k = k s := rfl
@[simp] theorem andThen_fault (e : Fault) (k : State → Result) : andThen (.fault e) k = .fault e := rfl
@[simp] theorem andThen_refused (e : Refusal) (k : State → Result) : andThen (.refused e) k = .refused e := rfl

/-- A sequence that answers went through a next state. -/
theorem andThen_eq_next {r : Result} {k : State → Result} {t : State} (h : andThen r k = .next t) :
    ∃ s, r = .next s ∧ k s = .next t := by
  cases r with
  | next s => exact ⟨s, rfl, h⟩
  | fault e => cases h
  | refused e => cases h

/-- A sequence that stops at the first error went through a next state and either stopped there or went on (R86). -/
theorem unlessFailed_eq_next {r : Result} {k : State → Result} {t : State} (h : unlessFailed r k = .next t) :
    ∃ s, r = .next s ∧
      ((endsOperation s.result = true ∧ t = s) ∨ (endsOperation s.result = false ∧ k s = .next t)) := by
  obtain ⟨s, hs, hk⟩ := andThen_eq_next h
  refine ⟨s, hs, ?_⟩
  cases he : endsOperation s.result with
  | true => rw [he] at hk; cases hk; exact .inl ⟨rfl, rfl⟩
  | false => rw [he] at hk; exact .inr ⟨rfl, hk⟩

theorem requireLive_live {s : State} (h : isLive s = true) (c : HostCall) (r : Result) : requireLive c s r = r := by
  simp [requireLive, h]

theorem requireLive_not {s : State} (h : isLive s = false) (c : HostCall) (r : Result) :
    requireLive c s r = .refused (.notLive c) := by
  simp [requireLive, h]

theorem requireLive_eq_next {c : HostCall} {s : State} {r : Result} {t : State} (h : requireLive c s r = .next t) :
    isLive s = true ∧ r = .next t := by
  unfold requireLive at h
  split at h
  · exact ⟨by assumption, h⟩
  · cases h

/-- A bare write that answers was made through a handle, and is one transaction. -/
theorem xwrite_eq_next {f : Frame} {s t : State} (h : xwrite f s = .next t) :
    isLive s = true ∧ s.device.hangs = false ∧ t = s.afterTransaction .write f :=
  ⟨(requireLive_eq_next h).1, transact_next (requireLive_eq_next h).2⟩

/-- A bare transfer that answers was made through a handle, and is one transaction. -/
theorem xfer_eq_next {f : Frame} {s t : State} (h : xfer f s = .next t) :
    isLive s = true ∧ s.device.hangs = false ∧ t = s.afterTransaction .transfer f :=
  ⟨(requireLive_eq_next h).1, transact_next (requireLive_eq_next h).2⟩

/-- Two states with the same lifecycle are `Live` together. -/
theorem isLive_congr {s t : State} (h : t.lifecycle = s.lifecycle) : isLive t = isLive s := by
  unfold isLive; rw [h]

theorem withReg_some {a : Byte} {s : State} {reg : RegDesc} (h : findReg s.cfg.regmap a = some reg)
    (k : RegDesc → Result) : withReg a s k = k reg := by
  simp [withReg, h]

theorem withReg_eq_next {a : Byte} {s : State} {k : RegDesc → Result} {t : State} (h : withReg a s k = .next t) :
    ∃ reg, findReg s.cfg.regmap a = some reg ∧ k reg = .next t := by
  unfold withReg at h
  split at h
  · rename_i reg hr; exact ⟨reg, hr, h⟩
  · cases h

theorem withNamedField_eq_next {a : Byte} {n : String} {s : State} {k : RegDesc → FieldDesc → Result} {t : State}
    (h : withNamedField a n s k = .next t) :
    ∃ reg f, findReg s.cfg.regmap a = some reg ∧ findField reg.fields n = some f ∧ k reg f = .next t := by
  obtain ⟨reg, hr, hk⟩ := withReg_eq_next h
  cases hf : findField reg.fields n with
  | some f => rw [hf] at hk; exact ⟨reg, f, hr, hf, hk⟩
  | none => rw [hf] at hk; cases hk

/-- A register write that answers is one write transaction of the register's frame (R70). -/
theorem writeRegister_eq_next {a : Byte} {p : Payload} {s t : State} (h : writeRegister a p s = .next t) :
    ∃ reg, findReg s.cfg.regmap a = some reg ∧ s.device.hangs = false ∧
      t = s.afterTransaction .write (writeCommand a p reg.wireOrder) := by
  obtain ⟨reg, hr, hk⟩ := withReg_eq_next h
  rw [takeFrame_encWr] at hk
  exact ⟨reg, hr, transact_next hk⟩

/-- A register read that answers is one transfer of the read frame, and then the decoded payload unless it failed
(R72). -/
theorem readRegister_eq_next {a : Byte} {s t : State} (h : readRegister a s = .next t) :
    ∃ reg, findReg s.cfg.regmap a = some reg ∧ s.device.hangs = false ∧
      deliverPayload reg.wireOrder (s.afterTransaction .transfer (readCommand a)) = .next t := by
  obtain ⟨reg, hr, hk⟩ := withReg_eq_next h
  rw [takeFrame_encRd] at hk
  obtain ⟨u, hu, hd⟩ := andThen_eq_next hk
  obtain ⟨hh, rfl⟩ := transact_next hu
  exact ⟨reg, hr, hh, hd⟩

/-- `RESET`'s first step, if it answers: the first write ended it, or it is under way without a result (R74, R86). -/
theorem hostReset_eq_next {s t : State} (h : hostReset s = .next t) :
    ∃ u, writeFields s.cfg.controlAddr (pulseSettings 1) s = .next u ∧
      ((endsOperation u.result = true ∧ t = u) ∨
       (endsOperation u.result = false ∧ t = { u with active := some .resetSecondWrite, result := none })) := by
  obtain ⟨u, hu, h | ⟨he, hk⟩⟩ := unlessFailed_eq_next h
  · exact ⟨u, hu, .inl h⟩
  · cases hk; exact ⟨u, hu, .inr ⟨he, rfl⟩⟩

/-- Going on with an operation, if it answers: on a Live host, with the second write of `RESET` (R69, R74). -/
theorem resumeCall_eq_next {a : ActiveCall} {s t : State} (h : resumeCall a s = .next t) :
    isLive s = true ∧ writeFields s.cfg.controlAddr (pulseSettings 0) s = .next t := by
  cases a; exact requireLive_eq_next h

/-- Delivering a payload changes the result alone. -/
theorem deliverPayload_cases (o : WireOrder) (s : State) :
    (s.response = none ∧ deliverPayload o s = .next s) ∨
    ∃ r, s.response = some r ∧ deliverPayload o s = .next (s.finish (.payload (responsePayload r o))) := by
  unfold deliverPayload
  cases s.response with
  | none => exact .inl ⟨rfl, rfl⟩
  | some r => exact .inr ⟨r, rfl, rfl⟩

/-- Extracting a field of the payload just read can only stop on a reversed range, go on with the field, or leave a
result that is no payload. -/
theorem withField_eq_next {reg : RegDesc} {f : FieldDesc} {k : Word16 → State → Result} {s t : State}
    (h : withField reg f k s = .next t) :
    t = s ∨ ∃ p v, s.result = some (.payload p) ∧
      bfExtOutputs p reg.byteOrder (fieldLo f) (fieldHi f) = .ofField v ∧ k v s = .next t := by
  unfold withField at h
  split at h
  · rename_i p hp
    simp only [bfExtOutputs] at h ⊢
    split at h
    · cases h
    · exact .inr ⟨p, _, hp, rfl, h⟩
  · cases h; exact .inl rfl

end Sys2Proof.Machine
end

