-- ==== Sys2Proof/Laws/PerInstr.lean ====
section
/-! SUPPORT. The family RowMatch: the words of each instruction match the row of spec/opcode_table.json its constructor
stands for. -/

namespace Sys2Proof.Laws

/-- The words hold an operation request with this `OP` code. -/
def hasOp (e : Encoded) (op : BitVec 3) : Prop := ∃ q, e = .ports q ∧ q.op = op

/-- The words are a command frame whose 24-bit word agrees with `pattern` under `mask` (R44). -/
def commandMatches (e : Encoded) (pattern mask : BitVec 24) : Prop :=
  ∃ f : Frame, e = .command [f.f0, f.f1, f.f2] ∧ frameWord f &&& mask = pattern

/-- The words are a response frame: its row fixes no bit (R44). -/
def isResponse (e : Encoded) : Prop := ∃ f : Frame, e = .response [f.f0, f.f1, f.f2]

/-- The row's fixed bits, in the table's order. -/
def RowMatch.Statement : Instr → Prop
  | .encWr a p o => hasOp (encode (.encWr a p o)) 0b000
  | .encRd a => hasOp (encode (.encRd a)) 0b001
  | .decRd r o => hasOp (encode (.decRd r o)) 0b010
  | .bfExt p v lo hi => hasOp (encode (.bfExt p v lo hi)) 0b011
  | .bfIns p v lo hi x => hasOp (encode (.bfIns p v lo hi x)) 0b100
  | .reserved101 => hasOp (encode .reserved101) 0b101
  | .reserved110 => hasOp (encode .reserved110) 0b110
  | .reserved111 => hasOp (encode .reserved111) 0b111
  | .writeFrame a d e => commandMatches (encode (.writeFrame a d e)) 0x000000 0x800000
  | .readFrame a d e => (Instr.readFrame a d e).wellFormed = true →
      commandMatches (encode (.readFrame a d e)) 0x800000 0x80FFFF
  | .readResponse x d e => isResponse (encode (.readResponse x d e))

theorem RowMatch.encWr (a : Byte) (p : Payload) (o : WireOrder) : RowMatch.Statement (.encWr a p o) := ⟨_, rfl, rfl⟩
theorem RowMatch.encRd (a : Byte) : RowMatch.Statement (.encRd a) := ⟨_, rfl, rfl⟩
theorem RowMatch.decRd (r : Frame) (o : WireOrder) : RowMatch.Statement (.decRd r o) := ⟨_, rfl, rfl⟩
theorem RowMatch.bfExt (p : Payload) (v : ValueOrder) (lo hi : BitVec 4) : RowMatch.Statement (.bfExt p v lo hi) :=
  ⟨_, rfl, rfl⟩
theorem RowMatch.bfIns (p : Payload) (v : ValueOrder) (lo hi : BitVec 4) (x : Word16) :
    RowMatch.Statement (.bfIns p v lo hi x) := ⟨_, rfl, rfl⟩
theorem RowMatch.reserved101 : RowMatch.Statement .reserved101 := ⟨_, rfl, rfl⟩
theorem RowMatch.reserved110 : RowMatch.Statement .reserved110 := ⟨_, rfl, rfl⟩
theorem RowMatch.reserved111 : RowMatch.Statement .reserved111 := ⟨_, rfl, rfl⟩
theorem RowMatch.writeFrame (a : BitVec 7) (d e : Byte) : RowMatch.Statement (.writeFrame a d e) := by
  refine ⟨⟨commandByte0 0#1 a, d, e⟩, rfl, (and_rwMask _).trans ?_⟩
  rw [frameWord_bit23, commandByte0_direction]
  rfl
theorem RowMatch.readFrame (a : BitVec 7) (d e : Byte) : RowMatch.Statement (.readFrame a d e) := by
  intro h
  obtain ⟨rfl, rfl⟩ : d = 0 ∧ e = 0 := by simpa [Instr.wellFormed] using h
  refine ⟨⟨commandByte0 1#1 a, 0, 0⟩, rfl, ?_⟩
  revert a
  decide
theorem RowMatch.readResponse (x d e : Byte) : RowMatch.Statement (.readResponse x d e) := ⟨⟨x, d, e⟩, rfl⟩

end Sys2Proof.Laws
end

