-- ==== Sys2Proof/Laws/Regmap.lean ====
section
/-! SUPPORT. What a well-formed `REGMAP` gives (R18, R19), and what looking a register or a field up can answer. -/

namespace Sys2Proof.Machine

/-- The checks of R18 and R19, one by one. -/
theorem regmapWf_checks {m : Regmap} (h : RegmapWf m) :
    (∀ r ∈ m, r.address.toNat ≤ 127) ∧ (m.map RegDesc.address).Nodup ∧ (∀ r ∈ m, r.sizeBits = 16) ∧
    (∀ r ∈ m, ∀ f ∈ r.fields, f.lo ≤ f.hi ∧ f.hi ≤ 15) ∧ (∀ r ∈ m, ∀ f ∈ r.fields, fieldKindOk f = true) ∧
    (∀ r ∈ m, r.fields.Pairwise fieldsApart) ∧ ∀ r ∈ m, (r.fields.map FieldDesc.name).Nodup := by
  unfold RegmapWf regmapProblem at h
  split at h
  · cases h
  rename_i h1
  split at h
  · cases h
  rename_i h2
  split at h
  · cases h
  rename_i h3
  split at h
  · cases h
  rename_i h4
  split at h
  · cases h
  rename_i h5
  split at h
  · cases h
  rename_i h6
  split at h
  · cases h
  rename_i h7
  simp only [Decidable.not_not, List.all_eq_true, decide_eq_true_eq, fieldRangeOk, Bool.and_eq_true] at h1 h2 h3 h4 h5 h6 h7
  exact ⟨h1, h2, h3, h4, h5, h6, h7⟩

theorem findReg_some {m : Regmap} {a : Byte} {r : RegDesc} (h : findReg m a = some r) : r ∈ m ∧ r.address = a := by
  induction m with
  | nil => cases h
  | cons x m ih =>
    unfold findReg at h
    split at h
    · rename_i hx
      cases h
      exact ⟨List.mem_cons_self, hx⟩
    · exact ⟨List.mem_cons_of_mem _ (ih h).1, (ih h).2⟩

theorem findField_some {fs : List FieldDesc} {n : String} {f : FieldDesc} (h : findField fs n = some f) :
    f ∈ fs ∧ f.name = n := by
  induction fs with
  | nil => cases h
  | cons x fs ih =>
    unfold findField at h
    split at h
    · rename_i hx
      cases h
      exact ⟨List.mem_cons_self, hx⟩
    · exact ⟨List.mem_cons_of_mem _ (ih h).1, (ih h).2⟩

/-- The ends of a field inside the 16-bit value are what the 4-bit ports carry (R15, R18). -/
theorem fieldLo_toNat {f : FieldDesc} (h : f.lo ≤ f.hi ∧ f.hi ≤ 15) : (fieldLo f).toNat = f.lo := by
  simp only [fieldLo, BitVec.toNat_ofNat]
  omega

theorem fieldHi_toNat {f : FieldDesc} (h : f.lo ≤ f.hi ∧ f.hi ≤ 15) : (fieldHi f).toNat = f.hi := by
  simp only [fieldHi, BitVec.toNat_ofNat]
  omega

theorem fieldRange_legal {f : FieldDesc} (h : f.lo ≤ f.hi ∧ f.hi ≤ 15) : fieldLo f ≤ fieldHi f := by
  rw [BitVec.le_def, fieldLo_toNat h, fieldHi_toNat h]
  exact h.1

theorem fieldRange_width {f : FieldDesc} (h : f.lo ≤ f.hi ∧ f.hi ≤ 15) :
    rangeWidth (fieldLo f) (fieldHi f) = fieldWidth f := by
  rw [rangeWidth, fieldLo_toNat h, fieldHi_toNat h, fieldWidth]

theorem fieldRange_apart {f g : FieldDesc} (hf : f.lo ≤ f.hi ∧ f.hi ≤ 15) (hg : g.lo ≤ g.hi ∧ g.hi ≤ 15)
    (h : fieldsApart f g) : fieldHi f < fieldLo g ∨ fieldHi g < fieldLo f := by
  simpa only [BitVec.lt_def, fieldLo_toNat hf, fieldLo_toNat hg, fieldHi_toNat hf, fieldHi_toNat hg] using h

/-- The settings a field-level write goes on with: every field is the register's, every value fits (R71). -/
theorem resolveSettings_ok {reg : RegDesc} {xs : List Setting} {fs : List (FieldDesc × Word16)}
    (h : resolveSettings reg xs = .ok fs) : ∀ x ∈ fs, x.1 ∈ reg.fields ∧ x.2.toNat < 2 ^ fieldWidth x.1 := by
  induction xs generalizing fs with
  | nil =>
    cases h
    intro x hx
    cases hx
  | cons x xs ih =>
    unfold resolveSettings at h
    split at h
    · cases h
    · cases h
    · rename_i f r hf _
      split at h
      · cases h
      · rename_i hw
        cases hr : resolveSettings reg xs with
        | error e => rw [hr] at h; cases h
        | ok gs =>
          rw [hr] at h
          cases h
          intro y hy
          rcases List.mem_cons.1 hy with rfl | hy
          · exact ⟨(findField_some hf).1, Nat.not_le.1 hw⟩
          · exact ih hr y hy

end Sys2Proof.Machine
end

