-- ==== Sys2Proof/Laws/Step.lean ====
section
/-! SUPPORT. All that one step can do, once. -/

namespace Sys2Proof.Machine

/-- A step that answers a next state found a well-formed map and either went on with the operation under way, idled,
ran an instruction, or ran a host operation. -/
theorem step_cases {s t : State} (h : step s = .next t) :
    RegmapWf s.cfg.regmap ∧
    ((∃ a, s.active = some a ∧ resumeCall a { s with active := none, out := .undriven } = .next t) ∨
     (s.active = none ∧
      ((s.todo = [] ∧ t = s.drive .undriven) ∨
       (∃ e rest i, s.todo = .instr e :: rest ∧ decode e = .instr i ∧ exec i { s with todo := rest } = .next t) ∨
       (∃ c rest, s.todo = .call c :: rest ∧
         hostCall c (State.drive { s with todo := rest } .undriven) = .next t)))) := by
  obtain ⟨todo, active, out, cfg, lifecycle, pinHigh, mem, device, log, response, result, draws⟩ := s
  simp only [step, startProblem] at h
  cases hm : regmapProblem cfg.regmap with
  | some c => simp [hm] at h
  | none =>
    refine ⟨hm, ?_⟩
    simp only [hm, Option.map_none] at h
    cases active with
    | some a => exact .inl ⟨a, rfl, h⟩
    | none =>
      refine .inr ⟨rfl, ?_⟩
      cases todo with
      | nil => cases h; exact .inl ⟨rfl, rfl⟩
      | cons x rest =>
        cases x with
        | instr e =>
          simp only [runNext, takeNext, runPresented] at h
          cases hd : decode e with
          | instr i => rw [hd] at h; exact .inr (.inl ⟨e, rest, i, rfl, hd, h⟩)
          | rejected err => rw [hd] at h; cases h
        | call c => exact .inr (.inr ⟨c, rest, rfl, h⟩)

end Sys2Proof.Machine
end

