-- ==== Sys2Proof/Machine/Assembler.lean ====
section
/-! DEFINITION. The textual syntax of 30_encoding.md R53, as a printer: numbers in decimal, payloads and frames in
brackets. It is notation only (D20); nothing else of the model rests on it. -/

namespace Sys2Proof.Machine

def byteText (b : Byte) : String := toString b.toNat

def payloadText (p : Payload) : String := "[" ++ byteText p.p0 ++ ", " ++ byteText p.p1 ++ "]"

def frameText (f : Frame) : String := "[" ++ byteText f.f0 ++ ", " ++ byteText f.f1 ++ ", " ++ byteText f.f2 ++ "]"

def orderText : WireOrder → String
  | .direct => "DIRECT"
  | .swapped => "SWAPPED"

def vordText : ValueOrder → String
  | .little => "LE"
  | .big => "BE"

def rangeText (lo hi : BitVec 4) : String := toString lo.toNat ++ ", " ++ toString hi.toNat

/-- The block operations (R53); the reserved codes and the wire frames have no line of their own there. -/
def instrText : Instr → Option String
  | .encWr a p o => some ("ENC_WR " ++ byteText a ++ ", " ++ payloadText p ++ ", " ++ orderText o)
  | .encRd a => some ("ENC_RD " ++ byteText a)
  | .decRd r o => some ("DEC_RD " ++ frameText r ++ ", " ++ orderText o)
  | .bfExt p v lo hi => some ("BF_EXT " ++ payloadText p ++ ", " ++ vordText v ++ ", " ++ rangeText lo hi)
  | .bfIns p v lo hi x =>
    some ("BF_INS " ++ payloadText p ++ ", " ++ vordText v ++ ", " ++ rangeText lo hi ++ ", " ++ toString x.toNat)
  | .reserved101 => none
  | .reserved110 => none
  | .reserved111 => none
  | .writeFrame _ _ _ => none
  | .readFrame _ _ _ => none
  | .readResponse _ _ _ => none

/-- The pseudo-instructions (R54). -/
def pseudoText : Pseudo → String
  | .value p v => "VALUE " ++ payloadText p ++ ", " ++ vordText v
  | .getb p v n => "GETB " ++ payloadText p ++ ", " ++ vordText v ++ ", " ++ toString n.toNat
  | .setb p v n => "SETB " ++ payloadText p ++ ", " ++ vordText v ++ ", " ++ toString n.toNat
  | .clrb p v n => "CLRB " ++ payloadText p ++ ", " ++ vordText v ++ ", " ++ toString n.toNat
  | .pack x v => "PACK " ++ toString x.toNat ++ ", " ++ vordText v

/-- The settings of a `WRREG`, without the braces around them. -/
def settingsText (xs : List Setting) : String :=
  ", ".intercalate (xs.map fun x => x.field ++ "=" ++ toString x.value.toNat)

/-- The host primitives and sequences (R53); reading a named field (R73) has no line of its own there. -/
def callText : HostCall → Option String
  | .new _ _ => some "NEW"
  | .destroy => some "DESTROY"
  | .writeRaw a p => some ("WRRAW " ++ byteText a ++ ", " ++ payloadText p)
  | .writeFields a xs =>
    some ("WRREG " ++ byteText a ++ " " ++ String.singleton (Char.ofNat 123) ++ settingsText xs ++
      String.singleton (Char.ofNat 125))
  | .readReg a => some ("RDREG " ++ byteText a)
  | .readField _ _ => none
  | .reset => some "RESET"
  | .readTemp => some "RDTEMP"
  | .xwrite f => some ("XWRITE " ++ frameText f)
  | .xfer f => some ("XFER " ++ frameText f)

end Sys2Proof.Machine
end

