-- ==== Sys2Proof/Tests/Slice0.lean ====
section
/-! SUPPORT. Tests against the vectors of 95_test_vectors.md (the vector is named at each test), decoding of words written
out from 30_encoding.md, the well-formedness checks on ill-formed terms, and a witness for the hypotheses of each
statement. -/

namespace Sys2Proof.Tests

open Sys2Proof.Machine

/-! ### Small states and what is read from an outcome -/

/-- A live host of the example map against an assumed device, with things presented. -/
def live (d : Device) (m : Memory) (todo : List Presented) : State :=
  { State.reset with lifecycle := .live 1 2, device := d, mem := m, todo := todo }

def isNext : Result → Bool
  | .next _ => true
  | .fault _ => false
  | .refused _ => false

theorem next_of_isNext {r : Result} (h : isNext r = true) : ∃ t, r = .next t := by
  cases r with
  | next t => exact ⟨t, rfl⟩
  | fault e => cases h
  | refused e => cases h

def logOf : Result → List Transaction
  | .next s => s.log
  | .fault _ => []
  | .refused _ => []

def resultOf : Result → Option HostResult
  | .next s => s.result
  | .fault _ => none
  | .refused _ => none

def memOf : Result → Memory
  | .next s => s.mem
  | .fault _ => []
  | .refused _ => []

def lifecycleOf : Result → Lifecycle
  | .next s => s.lifecycle
  | .fault _ => .noHandle
  | .refused _ => .noHandle

def faultOf : Result → Option Fault
  | .next _ => none
  | .fault e => some e
  | .refused _ => none

/-- Two steps. -/
def stepTwice (s : State) : Result := andThen (step s) step

def refusalOf : Result → Option Refusal
  | .next _ => none
  | .fault _ => none
  | .refused e => some e

/-! ### Well-formedness: each check refuses an ill-formed term -/

theorem test_wf_readFrame_refuses_data : (Instr.readFrame 76 0 1).wellFormed = false := by decide
theorem test_wf_readFrame_refuses_first_data : (Instr.readFrame 76 1 0).wellFormed = false := by decide
theorem test_wf_readFrame : (Instr.readFrame 76 0 0).wellFormed = true := by decide

theorem test_regmap_example (o : WireOrder) : RegmapWf (exampleRegmap o) := by cases o <;> decide
theorem test_regmap_address_range :
    regmapProblem [{ sensorRegister with address := 128 }] = some .addressRange := by decide
theorem test_regmap_address_unique :
    regmapProblem [sensorRegister, { controlRegister .direct with address := 76 }] = some .addressUnique := by decide
theorem test_regmap_size : regmapProblem [{ sensorRegister with sizeBits := 8 }] = some .sizeBits := by decide
theorem test_regmap_field_range :
    regmapProblem [{ sensorRegister with fields := [⟨"a", 0, 16, .unsigned⟩] }] = some .fieldRange := by decide
theorem test_regmap_field_reversed :
    regmapProblem [{ sensorRegister with fields := [⟨"a", 5, 4, .unsigned⟩] }] = some .fieldRange := by decide
theorem test_regmap_field_kind :
    regmapProblem [{ sensorRegister with fields := [⟨"a", 3, 3, .unsigned⟩] }] = some .fieldKind := by decide
theorem test_regmap_field_overlap :
    regmapProblem [{ sensorRegister with fields := [⟨"a", 0, 4, .unsigned⟩, ⟨"b", 4, 4, .bool⟩] }] =
      some .fieldOverlap := by decide
theorem test_regmap_field_name :
    regmapProblem [{ sensorRegister with fields := [⟨"a", 0, 0, .bool⟩, ⟨"a", 4, 4, .bool⟩] }] =
      some .fieldNameUnique := by decide

/-! ### Decoding of words written out (R44, R48) -/

theorem test_decode_encWr :
    decode (.ports ⟨0b000, 0x4C, ⟨0x12, 0x34⟩, 1, 0, ⟨0, 0, 0⟩, 0, 0, 0⟩) =
      .instr (.encWr 0x4C ⟨0x12, 0x34⟩ .swapped) := by decide
theorem test_decode_encRd :
    decode (.ports ⟨0b001, 0x4C, ⟨0, 0⟩, 0, 0, ⟨0, 0, 0⟩, 0, 0, 0⟩) = .instr (.encRd 0x4C) := by decide
theorem test_decode_decRd :
    decode (.ports ⟨0b010, 0, ⟨0, 0⟩, 0, 0, ⟨0x00, 0x03, 0xE8⟩, 0, 0, 0⟩) =
      .instr (.decRd ⟨0x00, 0x03, 0xE8⟩ .direct) := by decide
theorem test_decode_bfExt :
    decode (.ports ⟨0b011, 0, ⟨0x03, 0xE8⟩, 0, 1, ⟨0, 0, 0⟩, 0, 10, 0⟩) =
      .instr (.bfExt ⟨0x03, 0xE8⟩ .big 0 10) := by decide
theorem test_decode_bfIns :
    decode (.ports ⟨0b100, 0, ⟨0x70, 0x40⟩, 0, 0, ⟨0, 0, 0⟩, 1, 1, 1⟩) =
      .instr (.bfIns ⟨0x70, 0x40⟩ .little 1 1 1) := by decide
theorem test_decode_reserved :
    decodePorts (portsOfOp 0b101) = .reserved101 ∧ decodePorts (portsOfOp 0b110) = .reserved110 ∧
      decodePorts (portsOfOp 0b111) = .reserved111 := by decide
theorem test_decode_writeFrame : decode (.command [0b01001100, 0x12, 0x34]) = .instr (.writeFrame 76 0x12 0x34) := by
  decide
theorem test_decode_readFrame : decode (.command [0b11001100, 0, 0]) = .instr (.readFrame 76 0 0) := by decide
theorem test_decode_readResponse : decode (.response [0x00, 0x03, 0xE8]) = .instr (.readResponse 0x00 0x03 0xE8) := by
  decide
theorem test_decode_short_frame : decode (.command [0x00, 0x40]) = .rejected (.frameLength 2) := by decide
theorem test_tableWord_frame : decodeTableWord 24 0x4C1234 = some (.writeFrame 76 0x12 0x34) := by decide
theorem test_tableWord_op : decodeTableWord 8 0b001 = some (.encRd 0) := by decide
theorem test_tableWord_runs_first :
    outputsOf (step (State.reset.withFetchWord 8 0b001)) = some (.ofFrame ⟨0x80, 0, 0⟩) := by decide
theorem test_tableWord_frame_runs_first : isNext (step (State.reset.withFetchWord 24 0x800000)) = true := by decide
theorem test_text : instrText (.bfExt ⟨0x03, 0xE8⟩ .big 0 10) = some "BF_EXT [3, 232], BE, 0, 10" := by decide

/-! ### The block's operations -/

/-- V-WR-1. -/
theorem test_encWr_swapped :
    frameOf (exec (.encWr 0x00 ⟨0x22, 0x40⟩ .swapped) State.reset) = some ⟨0x00, 0x40, 0x22⟩ := by decide
/-- V-WR-6. -/
theorem test_encWr_drops_bit7 :
    frameOf (exec (.encWr 0x80 ⟨0xAA, 0x55⟩ .swapped) State.reset) = some ⟨0x00, 0x55, 0xAA⟩ := by decide
/-- V-RD-3. -/
theorem test_encRd_sensor : frameOf (exec (.encRd 0x4C) State.reset) = some ⟨0xCC, 0x00, 0x00⟩ := by decide
/-- V-RD-5. -/
theorem test_encRd_alias : frameOf (exec (.encRd 0x80) State.reset) = some ⟨0x80, 0x00, 0x00⟩ := by decide
/-- V-DEC-1. -/
theorem test_decRd_direct :
    payloadOf (exec (.decRd ⟨0x00, 0x03, 0xE8⟩ .direct) State.reset) = some ⟨0x03, 0xE8⟩ := by decide
/-- V-DEC-3. -/
theorem test_decRd_ignores_byte0 :
    payloadOf (exec (.decRd ⟨0xFF, 0x40, 0x22⟩ .swapped) State.reset) = some ⟨0x22, 0x40⟩ := by decide
/-- V-EXT-12. -/
theorem test_bfExt_middle : fieldOf (exec (.bfExt ⟨0x12, 0x34⟩ .big 4 11) State.reset) = some 0x23 := by decide
/-- V-ERR-2. -/
theorem test_bfExt_reversed :
    outputsOf (exec (.bfExt ⟨0, 0⟩ .little 5 4) State.reset) = some ⟨none, none, none, some (.bfRange 5 4)⟩ := by decide
/-- V-INS-8. -/
theorem test_bfIns_top_bit :
    payloadOf (exec (.bfIns ⟨0xFF, 0xFF⟩ .little 15 15 0) State.reset) = some ⟨0xFF, 0x7F⟩ := by decide
/-- V-ERR-4. -/
theorem test_bfIns_wide :
    outputsOf (exec (.bfIns ⟨0, 0⟩ .big 0 10 2048) State.reset) = some ⟨none, none, none, some (.bfValue 2048 11)⟩ := by
  decide
/-- V-ERR-1. -/
theorem test_reserved101 :
    outputsOf (exec .reserved101 State.reset) = some ⟨none, none, none, some (.illegalOp 0b101)⟩ := by decide
/-- V-ERR-1. -/
theorem test_reserved110 :
    outputsOf (exec .reserved110 State.reset) = some ⟨none, none, none, some (.illegalOp 0b110)⟩ := by decide
/-- V-ERR-7. -/
theorem test_reserved111 :
    outputsOf (exec .reserved111 State.reset) = some ⟨none, none, none, some (.illegalOp 0b111)⟩ := by decide

/-! ### Wire frames against the fixtures (D19) -/

/-- P1, step 10. -/
theorem test_writeFrame_echo :
    memOf (exec (.writeFrame 0 0x40 0x20) (live .echo [(0, 0x11), (1, 0x11)] [])) = [(0, 0x40), (1, 0x20)] := by decide
/-- P3, step 20. -/
theorem test_readFrame_echo :
    resultOf (exec (.readFrame 0 0 0) (live .echo [(0, 0x40), (1, 0x20)] [])) =
      some (.response ⟨0x00, 0x40, 0x20⟩) := by decide
/-- P4, step 10. -/
theorem test_writeFrame_fails :
    resultOf (exec (.writeFrame 0 0x40 0x20) (live (.script [.fail 7]) [] [])) = some (.transportError 7) := by decide
/-- P2, step 2. -/
theorem test_readFrame_script :
    resultOf (exec (.readFrame 76 0 0) (live (.script [.respond ⟨0x00, 0x03, 0xE8⟩]) [] [])) =
      some (.response ⟨0x00, 0x03, 0xE8⟩) := by decide
theorem test_readResponse : isNext (exec (.readResponse 0x00 0x03 0xE8) State.reset) = true := by decide

/-! ### The host's operations -/

/-- P1: the pulse, a step for each write. -/
theorem test_reset_pulse :
    logOf (stepTwice (live .echo [] [.call .reset])) =
      [⟨.write, ⟨0x00, 0x40, 0x22⟩, .sent⟩, ⟨.write, ⟨0x00, 0x40, 0x20⟩, .sent⟩] := by decide
/-- P4. -/
theorem test_reset_second_write_fails :
    resultOf (stepTwice (live (.script [.succeed, .fail 7]) [] [.call .reset])) = some (.transportError 7) := by decide
/-- R90, R106: the first write was performed, and its step is seen, though the second is never answered. -/
theorem test_reset_second_write_stuck :
    logOf (step (live (.script [.succeed, .never]) [] [.call .reset])) = [⟨.write, ⟨0x00, 0x40, 0x22⟩, .sent⟩] ∧
      faultOf (stepTwice (live (.script [.succeed, .never]) [] [.call .reset])) =
        some (.transportStuck .write ⟨0x00, 0x40, 0x20⟩) := by decide
/-- R69: the bare primitives are refused before `NEW`, and so is a command frame. -/
theorem test_transport_needs_handle :
    refusalOf (hostCall (.xfer ⟨0x80, 0, 0⟩) State.reset) = some (.notLive (.xfer ⟨0x80, 0, 0⟩)) ∧
      refusalOf (exec (.writeFrame 0 1 2) State.reset) = some (.notLive (.xwrite ⟨0x00, 1, 2⟩)) := by decide
/-- P2, V-TEMP-1. -/
theorem test_readTemp :
    resultOf (step (live (.script [.respond ⟨0x00, 0x03, 0xE8⟩]) [] [.call .readTemp])) =
      some (.temperature 0x43D98000) := by decide
/-- V-TEMP-3. -/
theorem test_temp_488 : temp (.binary32 tempSlope tempOffset) 488 = 0xBE4CC800 := by decide
/-- V-TEMP-5. -/
theorem test_temp_2047 : temp (.binary32 tempSlope tempOffset) 2047 = 0x44A59E67 := by decide
/-- V-ASM-7. -/
theorem test_writeFields_reset_only :
    logOf (step (live .echo [] [.call (.writeFields 0 [⟨"reset", 1⟩])])) =
      [⟨.write, ⟨0x00, 0x40, 0x72⟩, .sent⟩] := by decide
/-- V-ASM-7 under `UNSET_FIELD_DEFAULT = ZERO`. -/
theorem test_assemble_zero :
    assemble .zero (controlRegister .swapped) [(⟨"reset", 1, 1, .bool⟩, 1)] = .ok ⟨0x22, 0x40⟩ := rfl
/-- P3, steps 4 to 7. -/
theorem test_readField :
    resultOf (step (live .echo [(0, 0x40), (1, 0x71)] [.call (.readField 0 "powerdown")])) = some (.bool true) := by
  decide
/-- P6, step 3. -/
theorem test_destroyed_refuses :
    refusalOf (step { live .echo [] [.call (.readReg 0)] with lifecycle := .destroyed }) =
      some (.notLive (.readReg 0)) := by decide
/-- P6, steps 1 and 2. -/
theorem test_destroy_returns_handles :
    resultOf (step (live .echo [] [.call .destroy])) = some (.handles 1 2) := by decide

/-! ### Witnesses: for each statement with hypotheses, values that meet them together -/

/-- BfExtDrivesTheField, InsertAndExtractAreInverse, at both ends of the 16 bits. -/
theorem witness_legal_ranges : (0 : BitVec 4) ≤ 15 ∧ (15 : BitVec 4) ≤ 15 ∧ (0 : BitVec 4) ≤ 0 := by decide

/-- BfInsDrivesThePayload and InsertAndExtractAreInverse: the widest and the narrowest field, with the largest value. -/
theorem witness_fitting_values :
    ((0 : BitVec 4) ≤ 15 ∧ (0xFFFF : Word16).toNat < 2 ^ ((15 : BitVec 4).toNat - (0 : BitVec 4).toNat + 1)) ∧
    ((15 : BitVec 4) ≤ 15 ∧ (1 : Word16).toNat < 2 ^ ((15 : BitVec 4).toNat - (15 : BitVec 4).toNat + 1)) := by decide

/-- ReversedRangeRaisesBfRange. -/
theorem witness_reversed_range : (4 : BitVec 4) < 5 ∧ (0 : BitVec 4) < 15 := by decide

/-- WideValueRaisesBfValue: one above the largest value that fits (V-ERR-3, V-ERR-4). -/
theorem witness_wide_values :
    ((1 : BitVec 4) ≤ 1 ∧ 2 ^ ((1 : BitVec 4).toNat - (1 : BitVec 4).toNat + 1) ≤ (2 : Word16).toNat) ∧
    ((0 : BitVec 4) ≤ 10 ∧ 2 ^ ((10 : BitVec 4).toNat - (0 : BitVec 4).toNat + 1) ≤ (2048 : Word16).toNat) := by decide

/-- ReservedCodesRaiseIllegalOp, each of its codes. -/
theorem witness_reserved_codes :
    5 ≤ (portsOfOp 0b101).op.toNat ∧ 5 ≤ (portsOfOp 0b110).op.toNat ∧ 5 ≤ (portsOfOp 0b111).op.toNat := by decide

/-- BlockOperationsAreStateless. -/
theorem witness_block_op : isBlockOp (.encRd 76) = true := by decide

/-- HostOperationsAreRefusedUnlessLive, its last clause: a step before `NEW`. -/
theorem witness_step_not_live : isLive State.reset = false ∧ ∃ t, step State.reset = .next t :=
  ⟨by decide, next_of_isNext (by decide)⟩

/-- WriteFrameIsOneWrite, ReadFrameIsOneTransfer, WriteRawSendsTheRegistersFrame, ReadRegDecodesTheResponse: the state
after reset with a live host, whose device is not assumed. -/
theorem witness_answering_transport :
    (live .unknown [] []).device.hangs = false ∧ isLive (live .unknown [] []) = true ∧
      findReg (live .unknown [] []).cfg.regmap 0 = some (controlRegister .swapped) ∧
      findReg (live .unknown [] []).cfg.regmap 76 = some sensorRegister := by decide

/-- EchoWriteStoresOneWholeRegister, EchoReadAnswersTheRegister: the lowest and the highest register. -/
theorem witness_echo_registers :
    isLive (live .echo [(0, 1), (1, 2), (254, 3), (255, 4)] []) = true ∧ (live .echo [(0, 1), (1, 2), (254, 3), (255, 4)] []).device = .echo ∧
      memRead [(0, 1), (1, 2), (254, 3), (255, 4)] (2 * (0 : BitVec 7).toNat) = some 1 ∧
      memRead [(0, 1), (1, 2), (254, 3), (255, 4)] (2 * (0 : BitVec 7).toNat + 1) = some 2 ∧
      memRead [(0, 1), (1, 2), (254, 3), (255, 4)] (2 * (127 : BitVec 7).toNat) = some 3 ∧
      memRead [(0, 1), (1, 2), (254, 3), (255, 4)] (2 * (127 : BitVec 7).toNat + 1) = some 4 := by decide

/-- NothingIsKnownOfAnUnassumedDevice, with a register known before. -/
theorem witness_unassumed_device :
    (live .unknown [(0, 1), (1, 2)] []).device ≠ .echo ∧
      (∃ t, exec (.writeFrame 0 3 4) (live .unknown [(0, 1), (1, 2)] []) = .next t) ∧
      ∃ t, exec (.readFrame 0 0 0) (live (.script [.fail 3]) [(0, 1), (1, 2)] []) = .next t :=
  ⟨by decide, next_of_isNext (by decide), next_of_isNext (by decide)⟩

/-- UnansweredTransactionIsStuck. -/
theorem witness_stuck_transport :
    isLive (live (.script [.never]) [] []) = true ∧ (live (.script [.never]) [] []).device.hangs = true := by decide

/-- EveryFrameIsOneCommand, both clauses. -/
theorem witness_frame_directions : (0x7F : Byte).getLsbD 7 = false ∧ (0x80 : Byte).getLsbD 7 = true := by decide

/-- OnlyThreeBytesAreAFrame, both clauses at their edge. -/
theorem witness_frame_lengths :
    ([0, 0] : List Byte).length ≠ 3 ∧ ([0, 0, 0, 0] : List Byte).length ≠ 3 ∧ ([0, 0, 0] : List Byte).length = 3 := by
  decide

/-- InsertKeepsDisjointRanges, DisjointInsertsCommute: adjacent ranges, each side. -/
theorem witness_disjoint_ranges :
    ((0 : BitVec 4) ≤ 7 ∧ (8 : BitVec 4) ≤ 15 ∧ ((7 : BitVec 4) < 8 ∨ (15 : BitVec 4) < 0) ∧
      (255 : Word16).toNat < 2 ^ ((7 : BitVec 4).toNat - (0 : BitVec 4).toNat + 1) ∧
      (255 : Word16).toNat < 2 ^ ((15 : BitVec 4).toNat - (8 : BitVec 4).toNat + 1)) ∧
    ((8 : BitVec 4) ≤ 15 ∧ (0 : BitVec 4) ≤ 7 ∧ ((15 : BitVec 4) < 0 ∨ (7 : BitVec 4) < 8)) := by decide

/-- EveryStepKeepsTheInvariant: a state with a register known, outputs driven, a transaction logged and a write still to
do, which meets the invariant and steps. -/
theorem witness_invariant_state :
    ∃ s t, MachineInv s ∧ s.mem ≠ [] ∧ s.log ≠ [] ∧ step s = .next t :=
  ⟨{ live .echo [(2, 1), (3, 2)] [.call (.xwrite ⟨0x05, 3, 4⟩)] with
      out := .ofFrame ⟨0x05, 3, 4⟩, log := [⟨.write, ⟨0x01, 1, 2⟩, .sent⟩], result := some .ok }, (by
    obtain ⟨t, ht⟩ := next_of_isNext (r := step { live .echo [(2, 1), (3, 2)] [.call (.xwrite ⟨0x05, 3, 4⟩)] with
      out := .ofFrame ⟨0x05, 3, 4⟩, log := [⟨.write, ⟨0x01, 1, 2⟩, .sent⟩], result := some .ok }) (by decide)
    refine ⟨t, ⟨by decide, fun r => ?_, by decide, by decide, by decide, fun h => absurd rfl h⟩, by decide, by decide, ht⟩
    by_cases h : r = 1
    · subst h; decide
    · have h1 : ¬ (2 = 2 * r) := by omega
      have h2 : ¬ (3 = 2 * r) := by omega
      have h3 : ¬ (2 = 2 * r + 1) := by omega
      have h4 : ¬ (3 = 2 * r + 1) := by omega
      simp [live, memRead, h1, h2, h3, h4])⟩

/-- NoStepDrivesThePin, NoStepChangesTheConfiguration, TheLogOnlyGrows: a step with a transaction. -/
theorem witness_step :
    (∃ t, step (live .echo [] [.call .reset]) = .next t) ∧ notDigital (live .echo [] [.call .reset]).result = true :=
  ⟨next_of_isNext (by decide), by decide⟩

/-- DestroyedIsFinal. -/
theorem witness_destroyed :
    ∃ s t, s.lifecycle = .destroyed ∧ s.todo ≠ [] ∧ step s = .next t := by
  obtain ⟨t, ht⟩ := next_of_isNext
    (r := step { live .echo [] [.instr (.response [0, 1, 2])] with lifecycle := .destroyed }) (by decide)
  exact ⟨_, t, rfl, by decide, ht⟩

/-- OnlyNewAndDestroyChangeTheLifecycle. -/
theorem witness_lifecycle_change : ∃ s t, step s = .next t ∧ t.lifecycle ≠ s.lifecycle := by
  obtain ⟨t, ht⟩ := next_of_isNext (r := step (live .echo [] [.call .destroy])) (by decide)
  refine ⟨_, t, ht, ?_⟩
  have : lifecycleOf (step (live .echo [] [.call .destroy])) = .destroyed := by decide
  rw [ht] at this
  rw [show t.lifecycle = .destroyed from this]
  decide

/-- HostOperationsAreRefusedUnlessLive, both clauses. -/
theorem witness_not_live :
    needsLive .reset = true ∧ isLive State.reset = false ∧
      ({ State.reset with lifecycle := .destroyed } : State).lifecycle = .destroyed := by decide

/-- StepRunsThePresentedInstruction. -/
theorem witness_presented_instruction :
    ∃ e i rest, RegmapWf (live .echo [] [.instr (.command [0, 1, 2])]).cfg.regmap ∧
      (live .echo [] [.instr (.command [0, 1, 2])]).active = none ∧
      (live .echo [] [.instr (.command [0, 1, 2])]).todo = .instr e :: rest ∧ decode e = .instr i :=
  ⟨_, .writeFrame 0 1 2, _, by decide, rfl, rfl, by decide⟩

/-- StepRunsTheHostOperation, its first clause. -/
theorem witness_presented_call :
    ∃ c rest, RegmapWf (live .echo [] [.call .reset]).cfg.regmap ∧ (live .echo [] [.call .reset]).active = none ∧
      (live .echo [] [.call .reset]).todo = .call c :: rest :=
  ⟨_, _, by decide, rfl, rfl⟩

/-- StepRunsTheHostOperation, its second clause, and the invariant's: a state between the writes of `RESET`. -/
theorem witness_between_writes :
    ∃ s, step (live .echo [] [.call .reset]) = .next s ∧ RegmapWf s.cfg.regmap ∧ s.active = some .resetSecondWrite ∧
      isLive s = true ∧ s.result = none := ⟨_, rfl, by decide, rfl, rfl, rfl⟩

/-- IllFormedMapRefusesEveryStep. -/
theorem witness_bad_map :
    regmapProblem ({ exampleConfig .direct with regmap := [{ sensorRegister with address := 128 }] } : HostConfig).regmap
      = some .addressRange := by decide

/-- NothingPresentedDrivesNothing. -/
theorem witness_idle :
    RegmapWf State.reset.cfg.regmap ∧ State.reset.active = none ∧ State.reset.todo = [] := by decide

/-- NewStoresBothHandles and DestroyReturnsTheHandles. -/
theorem witness_lifecycles : State.reset.lifecycle ≠ .destroyed ∧ (live .echo [] []).lifecycle = .live 1 2 := by decide
theorem witness_new_answers : ∃ t, hostCall (.new 1 2) State.reset = .next t := ⟨_, rfl⟩

/-- ReadFieldGivesTheFieldOfThePayload: a bool and an unsigned field. -/
theorem witness_named_fields :
    isLive (live .echo [] []) = true ∧ RegmapWf (live .echo [] []).cfg.regmap ∧
      findReg (live .echo [] []).cfg.regmap 0 = some (controlRegister .swapped) ∧
      findField (controlRegister .swapped).fields "powerdown" = some ⟨"powerdown", 0, 0, .bool⟩ ∧
      findReg (live .echo [] []).cfg.regmap 76 = some sensorRegister ∧
      findField sensorRegister.fields "rb_temp_sens" = some ⟨"rb_temp_sens", 0, 10, .unsigned⟩ ∧
      (live .echo [] []).device.hangs = false := by decide

/-- EchoReadsBackWhatWasWritten, with its second clause's other register. -/
theorem witness_echo_write_and_read :
    (∃ t, hostCall (.writeRaw 0 ⟨0x22, 0x40⟩) (live .echo [] []) = .next t) ∧
      (76 : Byte) &&& 0x7F ≠ 0 &&& 0x7F ∧ ∃ u, hostCall (.readReg 76) (live .echo [] []) = .next u :=
  ⟨next_of_isNext (by decide), by decide, next_of_isNext (by decide)⟩

/-- FieldWritesSendTheAssembledPayload (its example), RdTempConvertsTheElevenBitField, under both wire orders. -/
theorem witness_example_device (o : WireOrder) :
    ({ live .unknown [] [] with cfg := exampleConfig o } : State).cfg = exampleConfig o ∧
      isLive { live .unknown [] [] with cfg := exampleConfig o } = true ∧
      ({ live .unknown [] [] with cfg := exampleConfig o } : State).device.hangs = false := ⟨rfl, rfl, rfl⟩

/-- A device of the example map with `RESET` to do, under the given wire order and default. -/
def resetState (d : Device) (o : WireOrder) (u : UnsetDefault) : State :=
  { live d [] [.call .reset] with cfg := { exampleConfig o with unsetDefault := u } }

/-- ResetIsTheFixedPulse: each wire order and each default. -/
theorem witness_reset (o : WireOrder) (u : UnsetDefault) :
    (resetState .unknown o u).cfg = { exampleConfig o with unsetDefault := u } ∧
      isLive (resetState .unknown o u) = true ∧ (resetState .unknown o u).device.hangs = false ∧
      (resetState .unknown o u).active = none ∧ (resetState .unknown o u).todo = .call .reset :: [] :=
  ⟨rfl, rfl, rfl, rfl, rfl⟩

/-- ResetIsTheFixedPulse: its inner clauses, a transport that answers the second write and one that never does. -/
theorem witness_reset_second_write :
    (Device.script [.succeed, .succeed]).rest.hangs = false ∧ (Device.script [.succeed, .never]).rest.hangs = true := by
  decide

/-- ResetIsTheFixedPulse, under DIRECT and `ZERO`: the two frames of E4. -/
theorem test_reset_pulse_direct :
    logOf (stepTwice (resetState .echo .direct .zero)) =
      [⟨.write, ⟨0x00, 0x22, 0x40⟩, .sent⟩, ⟨.write, ⟨0x00, 0x20, 0x40⟩, .sent⟩] := by decide

/-- TransportErrorEndsTheOperation. -/
theorem witness_failing_transport :
    RegmapWf (live (.script [.fail 7]) [] []).cfg.regmap ∧
      (live (.script [.fail 7]) [] []).device.failure (live (.script [.fail 7]) [] []).draws = some 7 ∧
      ∃ t, hostCall .reset (live (.script [.fail 7]) [] []) = .next t :=
  ⟨by decide, rfl, next_of_isNext (by decide)⟩

/-- FieldWritesReadNothing: two states that differ in what the device holds and answers. -/
theorem witness_two_field_writes :
    RegmapWf (live .echo [] []).cfg.regmap ∧ (live (.script [.fail 7]) [] []).cfg = (live .echo [(0, 9)] []).cfg ∧
      (∃ t, hostCall (.writeFields 0 [⟨"reset", 1⟩]) (live .echo [(0, 9)] []) = .next t) ∧
      ∃ t, hostCall (.writeFields 0 [⟨"reset", 1⟩]) (live (.script [.fail 7]) [] []) = .next t :=
  ⟨by decide, rfl, next_of_isNext (by decide), next_of_isNext (by decide)⟩

/-- BitsNotSetTakeTheirDefault: with `reset` alone set, bit 6 is in a field not set, and bit 14 is in no field. -/
theorem witness_bits_not_set :
    ¬ (1 ≤ 6 ∧ 6 ≤ 1) ∧ (∃ f ∈ (controlRegister .swapped).fields, f.lo ≤ 6 ∧ 6 ≤ f.hi) ∧
      ¬ (1 ≤ 14 ∧ 14 ≤ 1) ∧ ∀ f ∈ (controlRegister .swapped).fields, ¬ (f.lo ≤ 14 ∧ 14 ≤ f.hi) := by decide

/-- FieldWritesSendTheAssembledPayload: the settings of `witness_settings` on a Live host. -/
theorem witness_field_write :
    RegmapWf (live .unknown [] []).cfg.regmap ∧ isLive (live .unknown [] []) = true ∧
      findReg (live .unknown [] []).cfg.regmap 0 = some (controlRegister .swapped) ∧
      (controlRegister .swapped).access = .readWrite ∧ (live .unknown [] []).device.hangs = false := by decide

/-- BitsNotSetTakeTheirDefault, FieldWritesSendTheAssembledPayload, TheLastSettingOfAFieldIsWritten, SettingOrderDoesNotMatter, on register 0. -/
theorem witness_settings :
    RegmapWf (exampleRegmap .swapped) ∧ controlRegister .swapped ∈ exampleRegmap .swapped ∧
      (∀ x ∈ [((⟨"reset", 1, 1, .bool⟩ : FieldDesc), (1 : Word16)), (⟨"foo", 6, 6, .bool⟩, 0)],
        x.1 ∈ (controlRegister .swapped).fields ∧ x.2.toNat < 2 ^ (x.1.hi - x.1.lo + 1)) ∧
      ([((⟨"reset", 1, 1, .bool⟩ : FieldDesc), (1 : Word16)), (⟨"foo", 6, 6, .bool⟩, 0)].map Prod.fst).Nodup ∧
      (∀ x ∈ [((⟨"reset", 1, 1, .bool⟩ : FieldDesc), (1 : Word16)), (⟨"foo", 6, 6, .bool⟩, 0)],
        x.1 ≠ ⟨"bar", 4, 4, .bool⟩) ∧ ¬ (1 ≤ 15 ∧ 15 ≤ 1) ∧
      [((⟨"reset", 1, 1, .bool⟩ : FieldDesc), (1 : Word16)), (⟨"foo", 6, 6, .bool⟩, 0)].Perm
        [(⟨"foo", 6, 6, .bool⟩, 0), (⟨"reset", 1, 1, .bool⟩, 1)] := by decide

/-- FieldWritesAreRefusedBeforeTheBus: a ReadOnly register, and a bool set to 2. -/
theorem witness_refused_field_writes :
    isLive (live .echo [] []) = true ∧ findReg (live .echo [] []).cfg.regmap 76 = some sensorRegister ∧
      sensorRegister.access = .readOnly ∧
      findReg (live .echo [] []).cfg.regmap 0 = some (controlRegister .swapped) ∧
      (controlRegister .swapped).access = .readWrite ∧
      findField (controlRegister .swapped).fields "powerdown" = some ⟨"powerdown", 0, 0, .bool⟩ ∧
      2 ^ (0 - 0 + 1) ≤ (2 : Word16).toNat := by decide

/-- UnknownAddressesAreRefused. -/
theorem witness_unknown_address :
    isLive (live .echo [] []) = true ∧ findReg (live .echo [] []).cfg.regmap 1 = none := by decide

/-- TemperatureIsCloseToTheExactValue, TemperatureChangesSignAfter488: the edges of the range and of the clauses. -/
theorem witness_raw_values : 0 ≤ 2047 ∧ 2047 ≤ 2047 ∧ 488 ≤ 488 ∧ 489 ≤ 489 := by decide

/-- RoundingIsToNearestEven: the edges of its finite and its infinite clause. -/
theorem witness_rounding_range :
    roundMag (2 ^ 277 - 2 ^ 253) < 2 ^ 128 * 2 ^ 149 ∧ 2 ^ 128 * 2 ^ 149 ≤ roundMag (2 ^ 277) := by
  constructor <;> decide +kernel

/-- RoundingIsToNearestEven: a magnitude with bits beyond 24, on a tie. -/
theorem witness_rounding_tie :
    0 < excessBits (2 ^ 24 + 1) ∧ 2 * (2 ^ 24 + 1) = 2 * roundMag (2 ^ 24 + 1) + 2 ^ excessBits (2 ^ 24 + 1) := by decide

end Sys2Proof.Tests
end

section
/-! PROOFS. The wire frames and the bare primitives as transactions (00_scope.md R10, 20_memory.md R38,
45_register_access.md R69): one transaction from a Live host against a transport that answers, and what it does to the
state. -/

namespace Sys2Proof.Machine

/-! ### Byte 0 of a command frame as a number -/

theorem commandByte0_toNat (rw : BitVec 1) (a : BitVec 7) :
    (commandByte0 rw a).toNat = rw.toNat * 128 + a.toNat := by
  refine (BitVec.toNat_append rw a).trans ?_
  rw [← Nat.shiftLeft_add_eq_or_of_lt a.isLt, Nat.shiftLeft_eq]

/-- The frame of `WRITE_FRAME` begins with `0aaaaaaa` (R43, R44). -/
theorem commandByte0_write (a : BitVec 7) : commandByte0 0#1 a = BitVec.ofNat 8 a.toNat := by
  have := a.isLt
  refine BitVec.eq_of_toNat_eq ?_
  rw [commandByte0_toNat, BitVec.toNat_ofNat, BitVec.toNat_ofNat]
  omega

/-- The frame of `READ_FRAME` begins with `1aaaaaaa` (R43, R44). -/
theorem commandByte0_read (a : BitVec 7) : commandByte0 1#1 a = BitVec.ofNat 8 (128 + a.toNat) := by
  have := a.isLt
  refine BitVec.eq_of_toNat_eq ?_
  rw [commandByte0_toNat, BitVec.toNat_ofNat, BitVec.toNat_ofNat]
  omega

/-! ### How each kind of transaction ends -/

/-- A write is sent or fails (R70, R83). -/
theorem answer_write_cases (s : State) (f : Frame) :
    s.answer .write f = .sent ∨ ∃ x, s.answer .write f = .failed x := by
  obtain ⟨x, -, h⟩ | ⟨-, -, h⟩ | ⟨-, ⟨⟩, -⟩ := answer_cases s .write f
  · exact .inr ⟨x, h⟩
  · exact .inl h

/-- A transfer receives a response or fails (R72, R83). -/
theorem answer_transfer_cases (s : State) (f : Frame) :
    (∃ r, s.answer .transfer f = .received r) ∨ ∃ x, s.answer .transfer f = .failed x := by
  obtain ⟨x, -, h⟩ | ⟨-, ⟨⟩, -⟩ | ⟨-, -, h⟩ := answer_cases s .transfer f
  · exact .inr ⟨x, h⟩
  · exact .inl ⟨_, h⟩

/-! ### The state after a transaction -/

theorem sameHost_afterTransaction (s : State) (k : TxKind) (f : Frame) : sameHost s (s.afterTransaction k f) :=
  ⟨rfl, rfl, rfl, rfl, rfl⟩

theorem afterOneTransaction_afterTransaction (s : State) (k : TxKind) (f : Frame) :
    afterOneTransaction s (s.afterTransaction k f) := ⟨rfl, rfl, rfl⟩

theorem isOneWrite_afterTransaction (s : State) (f : Frame) : isOneWrite s (s.afterTransaction .write f) f := by
  refine ⟨sameHost_afterTransaction s .write f, ?_⟩
  obtain h | ⟨x, h⟩ := answer_write_cases s f
  · exact .inl (by simp [h, Answer.result])
  · exact .inr ⟨x, by simp [h, Answer.result]⟩

/-- A write captures no response, sent or failed (R70). -/
theorem response_afterTransaction_write (s : State) (f : Frame) : (s.afterTransaction .write f).response = none := by
  obtain h | ⟨x, h⟩ := answer_write_cases s f
  · simp [h, Answer.captured]
  · simp [h, Answer.captured]

theorem isOneTransfer_afterTransaction (s : State) (f : Frame) :
    isOneTransfer s (s.afterTransaction .transfer f) f := by
  refine ⟨sameHost_afterTransaction s .transfer f, ?_⟩
  obtain ⟨r, h⟩ | ⟨x, h⟩ := answer_transfer_cases s f
  · exact .inl ⟨r, by simp [h, Answer.result, Answer.captured]⟩
  · exact .inr ⟨x, by simp [h, Answer.result, Answer.captured]⟩

/-! ### The bare primitives, and the frames as steps -/

section
variable {s : State} (hl : isLive s = true) (ha : s.device.hangs = false)
include hl ha

theorem xwrite_of_answered (f : Frame) : xwrite f s = .next (s.afterTransaction .write f) :=
  (requireLive_live hl _ _).trans (transact_of_answered ha .write f)

theorem xfer_of_answered (f : Frame) : xfer f s = .next (s.afterTransaction .transfer f) :=
  (requireLive_live hl _ _).trans (transact_of_answered ha .transfer f)

/-- `XWRITE` is one write transaction of its frame (R10, R38). -/
theorem xwrite_isOneWrite (f : Frame) :
    ∃ t, xwrite f s = .next t ∧ isOneWrite s t f ∧ t.response = none ∧ afterOneTransaction s t :=
  ⟨_, xwrite_of_answered hl ha f, isOneWrite_afterTransaction s f, response_afterTransaction_write s f,
    afterOneTransaction_afterTransaction s .write f⟩

/-- `XFER` is one full-duplex transfer of its frame (R10, R38). -/
theorem xfer_isOneTransfer (f : Frame) :
    ∃ t, xfer f s = .next t ∧ isOneTransfer s t f ∧ afterOneTransaction s t :=
  ⟨_, xfer_of_answered hl ha f, isOneTransfer_afterTransaction s f,
    afterOneTransaction_afterTransaction s .transfer f⟩

end

/-- `WRITE_FRAME` is `XWRITE` of `[0aaaaaaa, d, e]` (R44, log entry 3). -/
theorem exec_writeFrame (a : BitVec 7) (d e : Byte) (s : State) :
    exec (.writeFrame a d e) s = xwrite ⟨BitVec.ofNat 8 a.toNat, d, e⟩ s := by
  rw [← commandByte0_write]
  rfl

/-- `READ_FRAME` is `XFER` of `[1aaaaaaa, d, e]` (R44, log entry 3). -/
theorem exec_readFrame (a : BitVec 7) (d e : Byte) (s : State) :
    exec (.readFrame a d e) s = xfer ⟨BitVec.ofNat 8 (128 + a.toNat), d, e⟩ s := by
  rw [← commandByte0_read]
  rfl

/-! ### The obligations -/

/-- Settles O10: both forms are `XWRITE`, which from a Live host that is answered is one write transaction. -/
theorem writeFrameIsOneWrite : Obligations.WriteFrameIsOneWrite := by
  intro s hl ha
  refine ⟨fun a d e => ?_, fun f => xwrite_isOneWrite hl ha f⟩
  rw [exec_writeFrame]
  exact xwrite_isOneWrite hl ha _

/-- Settles O11: both forms are `XFER`, which from a Live host that is answered is one transfer. -/
theorem readFrameIsOneTransfer : Obligations.ReadFrameIsOneTransfer := by
  intro s hl ha
  refine ⟨fun a d e => ?_, fun f => xfer_isOneTransfer hl ha f⟩
  rw [exec_readFrame]
  exact xfer_isOneTransfer hl ha _

end Sys2Proof.Machine
end

section
/-! PROOFS. What every step keeps (10_state.md R16, R23, R26, R27, R31): what an instruction and what a host operation
can do to the state, each said once, and from that the machine's invariant, the configuration and the lifecycle. -/

namespace Sys2Proof.Machine

/-! ### The block's operations: one output record each (R13) -/

theorem outputsConsistent_undriven : outputsConsistent .undriven = true := rfl
theorem outputsConsistent_ofFrame (f : Frame) : outputsConsistent (.ofFrame f) = true := rfl
theorem outputsConsistent_ofPayload (p : Payload) : outputsConsistent (.ofPayload p) = true := rfl
theorem outputsConsistent_ofField (v : Word16) : outputsConsistent (.ofField v) = true := rfl

theorem rangeError_ne_ok (lo hi : BitVec 4) : rangeError lo hi ≠ some .ok := by
  unfold rangeError
  split <;> simp

theorem insertError_ne_ok (lo hi : BitVec 4) (x : Word16) : insertError lo hi x ≠ some .ok := by
  unfold insertError
  split
  · rename_i e he
    exact he ▸ rangeError_ne_ok lo hi
  · unfold valueError
    split <;> simp

/-- An error other than `OK` stands alone on the ports (R78). -/
theorem outputsConsistent_ofError {e : BlockErr} (h : e ≠ .ok) : outputsConsistent (.ofError e) = true := by
  cases e with
  | ok => exact absurd rfl h
  | illegalOp op => rfl
  | bfRange lo hi => rfl
  | bfValue x w => rfl

theorem outputsConsistent_bfExt (p : Payload) (o : ValueOrder) (lo hi : BitVec 4) :
    outputsConsistent (bfExtOutputs p o lo hi) = true := by
  unfold bfExtOutputs
  split
  · rename_i e he
    exact outputsConsistent_ofError fun h => rangeError_ne_ok lo hi (h ▸ he)
  · exact outputsConsistent_ofField _

theorem outputsConsistent_bfIns (p : Payload) (o : ValueOrder) (lo hi : BitVec 4) (x : Word16) :
    outputsConsistent (bfInsOutputs p o lo hi x) = true := by
  unfold bfInsOutputs bfInsPayload
  cases he : insertError lo hi x with
  | some e => exact outputsConsistent_ofError fun h => insertError_ne_ok lo hi x (h ▸ he)
  | none => exact outputsConsistent_ofPayload _

/-- An operation of the block drives one record of outputs, the same in every state, and it is one an operation can
drive (R13, R16). -/
theorem exec_blockOp {i : Instr} (h : isBlockOp i = true) :
    ∃ o, outputsConsistent o = true ∧ ∀ s, exec i s = .next (s.drive o) := by
  cases i with
  | encWr a p o => exact ⟨_, outputsConsistent_ofFrame _, fun _ => rfl⟩
  | encRd a => exact ⟨_, outputsConsistent_ofFrame _, fun _ => rfl⟩
  | decRd r o => exact ⟨_, outputsConsistent_ofPayload _, fun _ => rfl⟩
  | bfExt p o lo hi => exact ⟨_, outputsConsistent_bfExt p o lo hi, fun _ => rfl⟩
  | bfIns p o lo hi x => exact ⟨_, outputsConsistent_bfIns p o lo hi x, fun _ => rfl⟩
  | reserved101 => exact ⟨_, outputsConsistent_ofError (by simp), fun _ => rfl⟩
  | reserved110 => exact ⟨_, outputsConsistent_ofError (by simp), fun _ => rfl⟩
  | reserved111 => exact ⟨_, outputsConsistent_ofError (by simp), fun _ => rfl⟩
  | writeFrame a d e => cases h
  | readFrame a d e => cases h
  | readResponse x d e => cases h

/-- All an instruction can do, if it answers: drive the outputs of one operation, issue one transaction through the
handle, or hold a response frame. -/
theorem exec_cases {i : Instr} {s t : State} (h : exec i s = .next t) :
    (isBlockOp i = true ∧ ∃ o, outputsConsistent o = true ∧ t = s.drive o) ∨
    (isLive s = true ∧ ∃ k f, t = s.afterTransaction k f) ∨
    ∃ r, t = { s.drive .undriven with response := some r } := by
  cases hb : isBlockOp i with
  | true =>
    obtain ⟨o, ho, hx⟩ := exec_blockOp hb
    rw [hx] at h
    cases h
    exact .inl ⟨rfl, o, ho, rfl⟩
  | false =>
    cases i with
    | writeFrame a d e =>
      obtain ⟨hl, -, ht⟩ := xwrite_eq_next h
      exact .inr (.inl ⟨hl, _, _, ht⟩)
    | readFrame a d e =>
      obtain ⟨hl, -, ht⟩ := xfer_eq_next h
      exact .inr (.inl ⟨hl, _, _, ht⟩)
    | readResponse x d e =>
      cases h
      exact .inr (.inr ⟨_, rfl⟩)
    | _ => cases hb

/-! ### Runs of a host operation -/

/-- What a host operation does between its start in `s` and its end, `NEW`, `DESTROY` and the pause of `RESET` aside:
it issues transactions and records results, none of them a `DigitalError` (R38, R78, R84). -/
inductive HostRun (s : State) : State → Prop where
  | start : HostRun s s
  | transaction {t : State} (k : TxKind) (f : Frame) : HostRun s t → HostRun s (t.afterTransaction k f)
  | finish {t : State} {r : HostResult} : HostRun s t → notDigital (some r) = true → HostRun s (t.finish r)

/-- A run leaves the configuration, the lifecycle, the pin and what is to come as they were. -/
theorem HostRun.sameHost {s t : State} (h : HostRun s t) : sameHost s t := by
  induction h with
  | start => exact ⟨rfl, rfl, rfl, rfl, rfl⟩
  | transaction k f _ ih => exact ih
  | finish _ _ ih => exact ih

theorem deliverPayload_run {o : WireOrder} {s u t : State} (hu : HostRun s u) (h : deliverPayload o u = .next t) :
    HostRun s t := by
  obtain ⟨-, hd⟩ | ⟨r, -, hd⟩ := deliverPayload_cases o u
  · cases hd.symm.trans h
    exact hu
  · cases hd.symm.trans h
    exact hu.finish rfl

theorem readRegister_run {a : Byte} {s t : State} (h : readRegister a s = .next t) : HostRun s t := by
  obtain ⟨reg, -, -, hd⟩ := readRegister_eq_next h
  exact deliverPayload_run (.transaction .transfer _ .start) hd

/-- Reading a register, extracting a field and ending with a result made of it: the shape of a field read (R73) and of
`RDTEMP` (R75). -/
theorem fieldRead_run {a : Byte} {reg : RegDesc} {f : FieldDesc} {g : Word16 → State → HostResult} {s t : State}
    (hg : ∀ v u, notDigital (some (g v u)) = true)
    (h : unlessFailed (readRegister a s) (withField reg f fun v u => .next (u.finish (g v u))) = .next t) :
    HostRun s t := by
  obtain ⟨u, hu, ⟨-, rfl⟩ | ⟨-, hk⟩⟩ := unlessFailed_eq_next h
  · exact readRegister_run hu
  · obtain rfl | ⟨p, v, -, -, hv⟩ := withField_eq_next hk
    · exact readRegister_run hu
    · cases hv
      exact (readRegister_run hu).finish (hg v u)

theorem notDigital_fieldResult (f : FieldDesc) (v : Word16) : notDigital (some (fieldResult f v)) = true := by
  unfold fieldResult
  split <;> rfl

theorem readNamedField_run {a : Byte} {n : String} {s t : State} (h : readNamedField a n s = .next t) :
    HostRun s t := by
  obtain ⟨reg, f, -, -, hk⟩ := withNamedField_eq_next h
  exact fieldRead_run (fun v _ => notDigital_fieldResult f v) hk

theorem readTemperature_run {s t : State} (h : readTemperature s = .next t) : HostRun s t := by
  obtain ⟨reg, f, -, -, hk⟩ := withNamedField_eq_next h
  exact fieldRead_run (fun _ _ => rfl) hk

theorem writeRegister_run {a : Byte} {p : Payload} {s t : State} (h : writeRegister a p s = .next t) :
    HostRun s t := by
  obtain ⟨reg, -, -, rfl⟩ := writeRegister_eq_next h
  exact .transaction .write _ .start

/-- A field-level write that answers is of a ReadWrite register with settings that resolve; it writes the assembled
payload, or ends in the error of assembling it (R64, R71). -/
theorem writeFields_eq_next {a : Byte} {xs : List Setting} {s t : State} (h : writeFields a xs s = .next t) :
    ∃ reg fs, findReg s.cfg.regmap a = some reg ∧ reg.access = .readWrite ∧ resolveSettings reg xs = .ok fs ∧
      ((∃ e, assemble s.cfg.unsetDefault reg fs = .error e ∧ t = s.finish (.blockError e)) ∨
       ∃ p, assemble s.cfg.unsetDefault reg fs = .ok p ∧ writeRegister a p s = .next t) := by
  obtain ⟨reg, hr, hk⟩ := withReg_eq_next h
  cases ha : reg.access with
  | readOnly => rw [ha] at hk; cases hk
  | readWrite =>
    cases hf : resolveSettings reg xs with
    | error r => simp only [ha, hf] at hk; cases hk
    | ok fs =>
      refine ⟨reg, fs, hr, ha, hf, ?_⟩
      cases hp : assemble s.cfg.unsetDefault reg fs with
      | error e => simp only [ha, hf, hp] at hk; cases hk; exact .inl ⟨e, rfl, rfl⟩
      | ok p => simp only [ha, hf, hp] at hk; exact .inr ⟨p, rfl, hk⟩

theorem writeFields_run {a : Byte} {xs : List Setting} {s t : State} (h : writeFields a xs s = .next t) :
    HostRun s t := by
  obtain ⟨reg, fs, -, -, -, ⟨e, -, rfl⟩ | ⟨p, -, hw⟩⟩ := writeFields_eq_next h
  · exact .finish .start rfl
  · exact writeRegister_run hw

/-- Going on with `RESET`, if it answers, is a run of a Live host. -/
theorem resumeCall_run {a : ActiveCall} {s t : State} (h : resumeCall a s = .next t) : isLive s = true ∧ HostRun s t :=
  (resumeCall_eq_next h).imp id writeFields_run

/-- `NEW`, if it answers, stores the handles, and not after `DESTROY` (R67, R69). -/
theorem hostNew_eq_next {a b : Nat} {s t : State} (h : hostNew a b s = .next t) :
    s.lifecycle ≠ .destroyed ∧ t = { s.finish .ok with lifecycle := .live a b } := by
  unfold hostNew at h
  split at h
  · cases h
  · rename_i hl
    cases h
    exact ⟨by simp [hl], rfl⟩
  · rename_i hl
    cases h
    exact ⟨by simp [hl], rfl⟩

/-- `DESTROY`, if it answers, gives the handles of a Live host back (R68, R69). -/
theorem hostDestroy_eq_next {s t : State} (h : hostDestroy s = .next t) :
    ∃ a b, s.lifecycle = .live a b ∧ t = { s.finish (.handles a b) with lifecycle := .destroyed } := by
  unfold hostDestroy at h
  split at h
  · rename_i a b hl
    cases h
    exact ⟨a, b, hl, rfl⟩
  · cases h
  · cases h

/-- All a host operation can do, if it answers: `NEW` and `DESTROY` change the lifecycle; every other is a run of a Live
host, after which `RESET` alone may be left under way without a result. -/
theorem hostCall_cases {c : HostCall} {s t : State} (h : hostCall c s = .next t) :
    (∃ a b, c = .new a b ∧ s.lifecycle ≠ .destroyed ∧ t = { s.finish .ok with lifecycle := .live a b }) ∨
    (∃ a b, c = .destroy ∧ s.lifecycle = .live a b ∧
      t = { s.finish (.handles a b) with lifecycle := .destroyed }) ∨
    (isLive s = true ∧ ∃ u, HostRun s u ∧
      (t = u ∨ c = .reset ∧ t = { u with active := some .resetSecondWrite, result := none })) := by
  cases c with
  | new a b =>
    obtain ⟨hd, ht⟩ := hostNew_eq_next h
    exact .inl ⟨a, b, rfl, hd, ht⟩
  | destroy =>
    obtain ⟨a, b, hl, ht⟩ := hostDestroy_eq_next h
    exact .inr (.inl ⟨a, b, rfl, hl, ht⟩)
  | writeRaw a p =>
    obtain ⟨hl, hk⟩ := requireLive_eq_next h
    exact .inr (.inr ⟨hl, t, writeRegister_run hk, .inl rfl⟩)
  | writeFields a xs =>
    obtain ⟨hl, hk⟩ := requireLive_eq_next h
    exact .inr (.inr ⟨hl, t, writeFields_run hk, .inl rfl⟩)
  | readReg a =>
    obtain ⟨hl, hk⟩ := requireLive_eq_next h
    exact .inr (.inr ⟨hl, t, readRegister_run hk, .inl rfl⟩)
  | readField a n =>
    obtain ⟨hl, hk⟩ := requireLive_eq_next h
    exact .inr (.inr ⟨hl, t, readNamedField_run hk, .inl rfl⟩)
  | reset =>
    obtain ⟨hl, hk⟩ := requireLive_eq_next h
    obtain ⟨u, hu, ⟨-, ht⟩ | ⟨-, ht⟩⟩ := hostReset_eq_next hk
    · exact .inr (.inr ⟨hl, u, writeFields_run hu, .inl ht⟩)
    · exact .inr (.inr ⟨hl, u, writeFields_run hu, .inr ⟨rfl, ht⟩⟩)
  | readTemp =>
    obtain ⟨hl, hk⟩ := requireLive_eq_next h
    exact .inr (.inr ⟨hl, t, readTemperature_run hk, .inl rfl⟩)
  | xwrite f =>
    obtain ⟨hl, -, ht⟩ := xwrite_eq_next h
    exact .inr (.inr ⟨hl, _, .transaction .write f .start, .inl ht⟩)
  | xfer f =>
    obtain ⟨hl, -, ht⟩ := xfer_eq_next h
    exact .inr (.inr ⟨hl, _, .transaction .transfer f .start, .inl ht⟩)

/-! ### The invariant under each move -/

/-- Writing a register, both bytes of it, leaves every register known whole or not at all (R27). -/
theorem registersWhole_regWrite {m : Memory} (reg : BitVec 7) (w1 w2 : Byte) (h : registersWhole m) :
    registersWhole (regWrite m reg w1 w2) := by
  intro r
  by_cases hr : r = reg.toNat
  · subst hr
    simp [memRead_regWrite]
  · simp (disch := omega) only [memRead_regWrite, if_neg]
    exact h r

theorem registersWhole_memAfter (d : Device) {m : Memory} (f : Frame) (h : registersWhole m) :
    registersWhole (d.memAfter m f) := by
  cases d with
  | echo =>
    simp only [Device.memAfter]
    split
    · exact h
    · exact registersWhole_regWrite _ _ _ h
  | unknown => exact fun _ => rfl
  | script ls => exact fun _ => rfl

/-- A transaction ends as its kind can (R70, R72). -/
theorem answerFits_answer (s : State) (k : TxKind) (f : Frame) : answerFits ⟨k, f, s.answer k f⟩ = true := by
  obtain ⟨x, -, h⟩ | ⟨-, rfl, h⟩ | ⟨-, rfl, h⟩ := answer_cases s k f
  · rw [h]
    cases k <;> rfl
  · rw [h]
    rfl
  · rw [h]
    rfl

theorem notDigital_answer (x : Answer) : notDigital (some x.result) = true := by
  cases x <;> rfl

/-- The invariant asks nothing of what is to be presented or of a response held. -/
theorem MachineInv.of_drive {s : State} {o : Outputs} (hi : MachineInv s) (ho : outputsConsistent o = true)
    (todo : List Presented) (response : Option Frame) :
    MachineInv { s with out := o, todo := todo, response := response } :=
  { hi with outputs := ho }

/-- `RESET` under way on a Live host, with no result yet (R69, R78, log entry 18). -/
theorem MachineInv.underWay {s : State} (hi : MachineInv s) (hl : isLive s = true) (a : ActiveCall) :
    MachineInv { s with active := some a, result := none } :=
  { hi with noDigital := rfl, active := fun _ => ⟨hl, rfl⟩ }

/-- An operation under way is taken up with nothing under way and no output driven. -/
theorem MachineInv.takeUp {s : State} (hi : MachineInv s) :
    MachineInv { s with active := none, out := .undriven } :=
  { hi with outputs := rfl, active := fun h => absurd rfl h }

section
variable {s : State} (hi : MachineInv s) (ha : s.active = none)
include hi ha

theorem MachineInv.transaction (k : TxKind) (f : Frame) : MachineInv (s.afterTransaction k f) where
  memCanonical := memWf_memAfter s.device f hi.memCanonical
  memWhole := registersWhole_memAfter s.device f hi.memWhole
  outputs := rfl
  transactions := by simp [hi.transactions, answerFits_answer]
  noDigital := notDigital_answer _
  active := fun h => absurd ha h

/-- A result recorded and the lifecycle it leaves: `finish`, `NEW` and `DESTROY`. -/
theorem MachineInv.finish_lifecycle {r : HostResult} (hr : notDigital (some r) = true) (l : Lifecycle) :
    MachineInv { s.finish r with lifecycle := l } :=
  { hi with noDigital := hr, active := fun h => absurd ha h }

/-- A run keeps the invariant. -/
theorem HostRun.inv {t : State} (h : HostRun s t) : MachineInv t := by
  induction h with
  | start => exact hi
  | @transaction u k f hu ih =>
    obtain ⟨-, hact, -⟩ := hu.sameHost
    exact ih.transaction (hact.trans ha) k f
  | @finish u r hu hr ih =>
    obtain ⟨-, hact, -⟩ := hu.sameHost
    exact ih.finish_lifecycle (hact.trans ha) hr u.lifecycle

theorem exec_inv {i : Instr} {t : State} (h : exec i s = .next t) : MachineInv t := by
  obtain ⟨-, o, ho, rfl⟩ | ⟨-, k, f, rfl⟩ | ⟨r, rfl⟩ := exec_cases h
  · exact hi.of_drive ho _ _
  · exact hi.transaction ha k f
  · exact hi.of_drive outputsConsistent_undriven _ _

theorem hostCall_inv {c : HostCall} {t : State} (h : hostCall c s = .next t) : MachineInv t := by
  obtain ⟨a, b, -, -, rfl⟩ | ⟨a, b, -, -, rfl⟩ | ⟨hl, u, hu, rfl | ⟨-, rfl⟩⟩ := hostCall_cases h
  · exact hi.finish_lifecycle ha rfl _
  · exact hi.finish_lifecycle ha rfl _
  · exact hu.inv hi ha
  · obtain ⟨-, -, -, hlc, -⟩ := hu.sameHost
    exact (hu.inv hi ha).underWay ((isLive_congr hlc).trans hl) _

end

/-! ### Configuration and lifecycle -/

/-- An instruction changes neither the configuration nor the lifecycle (R26, R87). -/
theorem exec_cfg_lifecycle {i : Instr} {s t : State} (h : exec i s = .next t) :
    t.cfg = s.cfg ∧ t.lifecycle = s.lifecycle := by
  obtain ⟨-, o, -, rfl⟩ | ⟨-, k, f, rfl⟩ | ⟨r, rfl⟩ := exec_cases h
  · exact ⟨rfl, rfl⟩
  · exact ⟨rfl, rfl⟩
  · exact ⟨rfl, rfl⟩

/-- A host operation leaves the configuration, and unless it is `NEW` or `DESTROY` the lifecycle (R26, R87). -/
theorem hostCall_cfg_lifecycle {c : HostCall} {s t : State} (h : hostCall c s = .next t) :
    t.cfg = s.cfg ∧ (t.lifecycle = s.lifecycle ∨ (∃ a b, c = .new a b) ∨ c = .destroy) := by
  obtain ⟨a, b, hc, -, rfl⟩ | ⟨a, b, hc, -, rfl⟩ | ⟨-, u, hu, ht⟩ := hostCall_cases h
  · exact ⟨rfl, .inr (.inl ⟨a, b, hc⟩)⟩
  · exact ⟨rfl, .inr (.inr hc)⟩
  · obtain ⟨-, -, hcfg, hlc, -⟩ := hu.sameHost
    obtain rfl | ⟨-, rfl⟩ := ht
    · exact ⟨hcfg, .inl hlc⟩
    · exact ⟨hcfg, .inl hlc⟩

/-- A step leaves the configuration, and unless `NEW` or `DESTROY` was presented first the lifecycle. -/
theorem step_cfg_lifecycle {s t : State} (h : step s = .next t) :
    t.cfg = s.cfg ∧ (t.lifecycle = s.lifecycle ∨ (∃ a b rest, s.todo = .call (.new a b) :: rest) ∨
      ∃ rest, s.todo = .call .destroy :: rest) := by
  obtain ⟨-, ⟨a, -, hr⟩ | ⟨-, ⟨-, rfl⟩ | ⟨e, rest, i, -, -, hx⟩ | ⟨c, rest, ht, hc⟩⟩⟩ := step_cases h
  · obtain ⟨-, -, hcfg, hlc, -⟩ := (resumeCall_run hr).2.sameHost
    exact ⟨hcfg, .inl hlc⟩
  · exact ⟨rfl, .inl rfl⟩
  · exact (exec_cfg_lifecycle hx).imp id .inl
  · obtain ⟨hcfg, hlc | ⟨a, b, rfl⟩ | rfl⟩ := hostCall_cfg_lifecycle hc
    · exact ⟨hcfg, .inl hlc⟩
    · exact ⟨hcfg, .inr (.inl ⟨a, b, rest, ht⟩)⟩
    · exact ⟨hcfg, .inr (.inr ⟨rest, ht⟩)⟩

/-! ### Which step is taken -/

theorem step_of_regmapWf {s : State} (h : RegmapWf s.cfg.regmap) : step s = runNext s := by
  simp only [step, startProblem, show regmapProblem s.cfg.regmap = none from h, Option.map_none]

theorem step_of_regmapProblem {s : State} {c : RegmapCheck} (h : regmapProblem s.cfg.regmap = some c) :
    step s = .refused (.badRegmap c) := by
  simp only [step, startProblem, h, Option.map_some]

theorem runNext_of_nil {s : State} (ha : s.active = none) (ht : s.todo = []) : runNext s = .next (idle s) := by
  simp only [runNext, ha, takeNext, ht]

theorem runNext_of_cons {s : State} {x : Presented} {rest : List Presented} (ha : s.active = none)
    (ht : s.todo = x :: rest) : runNext s = runPresented x { s with todo := rest } := by
  simp only [runNext, ha, takeNext, ht]

theorem runPresented_instr {e : Encoded} {i : Instr} (h : decode e = .instr i) (s : State) :
    runPresented (.instr e) s = exec i s := by
  simp only [runPresented, h]

/-! ### The obligations -/

/-- Settles O30: by what a step can do, each of its four forms starting from a state in which nothing is under way. -/
theorem everyStepKeepsTheInvariant : Obligations.EveryStepKeepsTheInvariant := by
  intro s t hi h
  obtain ⟨-, ⟨a, -, hr⟩ | ⟨ha, ⟨-, rfl⟩ | ⟨e, rest, i, -, -, hx⟩ | ⟨c, rest, -, hc⟩⟩⟩ := step_cases h
  · exact (resumeCall_run hr).2.inv hi.takeUp rfl
  · exact hi.of_drive outputsConsistent_undriven _ _
  · exact exec_inv (hi.of_drive hi.outputs rest _) ha hx
  · exact hostCall_inv (hi.of_drive outputsConsistent_undriven rest _) ha hc

/-- Settles O33: no instruction and no run of a host operation changes the configuration. -/
theorem noStepChangesTheConfiguration : Obligations.NoStepChangesTheConfiguration :=
  fun _ _ h => (step_cfg_lifecycle h).1

/-- Settles O36: every other form of step leaves the lifecycle. -/
theorem onlyNewAndDestroyChangeTheLifecycle : Obligations.OnlyNewAndDestroyChangeTheLifecycle :=
  fun _ _ h hne => (step_cfg_lifecycle h).2.resolve_left hne

/-- Settles O9: the output record of each operation does not mention the state. -/
theorem blockOperationsAreStateless : Obligations.BlockOperationsAreStateless := by
  intro i hi
  obtain ⟨o, -, hx⟩ := exec_blockOp hi
  exact ⟨o, hx⟩

/-- Settles O31: at reset nothing is known, driven, logged or under way. -/
theorem resetMeetsTheInvariant : Obligations.ResetMeetsTheInvariant where
  memCanonical := memWf_reset
  memWhole := fun _ => rfl
  outputs := outputsConsistent_undriven
  transactions := rfl
  noDigital := rfl
  active := fun h => absurd rfl h

/-- Settles O38: on a well-formed map with nothing under way the head is taken off, decoded and run. -/
theorem stepRunsThePresentedInstruction : Obligations.StepRunsThePresentedInstruction := by
  intro e rest i s hm ha ht hd
  rw [step_of_regmapWf hm, runNext_of_cons ha ht, runPresented_instr hd]

/-- Settles O40: the map's check comes before everything else in a step. -/
theorem illFormedMapRefusesEveryStep : Obligations.IllFormedMapRefusesEveryStep :=
  fun _ _ h => step_of_regmapProblem h

/-- Settles O41: on a well-formed map with nothing under way and nothing presented the machine idles. -/
theorem nothingPresentedDrivesNothing : Obligations.NothingPresentedDrivesNothing := by
  intro s hm ha ht
  rw [step_of_regmapWf hm, runNext_of_nil ha ht]
  rfl

end Sys2Proof.Machine
end

section
/-! PROOFS. The device's register space and the byte order on the wire (20_memory.md R27, R32, R35, R36), the log of
transactions (R38), and the step of a host operation (70_reset_and_hazards.md R106). -/

namespace Sys2Proof.Machine

/-! ### The register space after a command frame -/

/-- The direction of a command frame is the bit its byte 0 was made with (R43). -/
theorem frameIsRead_command (rw : BitVec 1) (a : BitVec 7) (d e : Byte) :
    frameIsRead ⟨commandByte0 rw a, d, e⟩ = rw.getLsbD 0 :=
  commandByte0_direction rw a

/-- The register of a command frame is the one its byte 0 was made with (R45). -/
theorem frameReg_command (rw : BitVec 1) (a : BitVec 7) (d e : Byte) : frameReg ⟨commandByte0 rw a, d, e⟩ = a :=
  commandByte0_address rw a

/-- ECHO stores both data bytes of a write frame in its register (R27, D19). -/
theorem memAfter_echo_write (m : Memory) (a : BitVec 7) (d e : Byte) :
    Device.echo.memAfter m ⟨commandByte0 0#1 a, d, e⟩ = regWrite m a d e := by
  have hw : frameIsRead ⟨commandByte0 0#1 a, d, e⟩ = false := frameIsRead_command 0#1 a d e
  simp [Device.memAfter, hw, frameReg_command]

/-- After a transaction with a device that is not ECHO nothing is known (R35, R36). -/
theorem memAfter_of_ne_echo {d : Device} (h : d ≠ .echo) (m : Memory) (f : Frame) : d.memAfter m f = [] := by
  cases d with
  | echo => exact absurd rfl h
  | unknown => rfl
  | script ls => rfl

/-- No transaction with ECHO fails, so a write is sent (D19). -/
theorem answer_write_of_echo {s : State} (h : s.device = .echo) (f : Frame) : s.answer .write f = .sent := by
  simp [State.answer, h, Device.failure]

/-- A command frame as a step, if it answers, is one transaction. -/
theorem exec_commandFrame_eq_next {a : BitVec 7} {d e : Byte} {s t : State}
    (h : exec (.writeFrame a d e) s = .next t ∨ exec (.readFrame a d e) s = .next t) :
    ∃ k f, t = s.afterTransaction k f := by
  obtain h | h := h
  · obtain ⟨-, -, ht⟩ := xwrite_eq_next h
    exact ⟨_, _, ht⟩
  · obtain ⟨-, -, ht⟩ := xfer_eq_next h
    exact ⟨_, _, ht⟩

/-! ### The order of a value's bytes on the wire -/

theorem low_byte_toNat (v : Word16) : (v.extractLsb' 0 8).toNat = v.toNat % 256 := by
  simp

theorem high_byte_toNat (v : Word16) : (v.extractLsb' 8 8).toNat = v.toNat / 256 := by
  have := v.isLt
  rw [BitVec.extractLsb'_toNat, Nat.shiftRight_eq_div_pow]
  omega

/-- Inserting into the whole range replaces the value. -/
theorem insertField_full (u v : Word16) : insertField u 0 15 v = v := by
  refine BitVec.eq_of_getLsbD_eq fun i hi => ?_
  have hw : rangeWidth 0#4 15#4 = 16 := rfl
  rw [getLsbD_insertField u 0 15 v i hi]
  simp [hw, Nat.not_le.2 hi]

/-- `PACK` drives the payload of its value (R54). -/
theorem payloadOf_pack (v : Word16) (o : ValueOrder) (s : State) :
    payloadOf (exec (expandPseudo (.pack v o)) s) = some (bytes v o) := by
  have hp : bfInsPayload ⟨0, 0⟩ o 0 15 v = .ok (bytes v o) := by
    rw [bfInsPayload_legal (by decide) v.isLt, insertField_full]
  show (bfInsOutputs ⟨0, 0⟩ o 0 15 v).payOut = some (bytes v o)
  rw [bfInsOutputs, hp, ofPayload_payOut]

/-- The two rows of R32 that put the low byte first. -/
theorem permute_bytes_low_first (v : Word16) {o : ValueOrder} {w : WireOrder}
    (h : (o = .little ∧ w = .direct) ∨ (o = .big ∧ w = .swapped)) : permute (bytes v o) w = bytes v .little := by
  obtain ⟨rfl, rfl⟩ | ⟨rfl, rfl⟩ := h
  · rfl
  · rfl

/-- The two rows of R32 that put the high byte first. -/
theorem permute_bytes_high_first (v : Word16) {o : ValueOrder} {w : WireOrder}
    (h : (o = .little ∧ w = .swapped) ∨ (o = .big ∧ w = .direct)) : permute (bytes v o) w = bytes v .big := by
  obtain ⟨rfl, rfl⟩ | ⟨rfl, rfl⟩ := h
  · rfl
  · rfl

/-! ### The log of transactions -/

/-- A run only appends to the log (R38). -/
theorem HostRun.log_prefix {s t : State} (h : HostRun s t) : s.log <+: t.log := by
  induction h with
  | start => exact List.prefix_rfl
  | transaction k f _ ih => exact ih.trans (List.prefix_append _ _)
  | finish _ _ ih => exact ih

theorem exec_log_prefix {i : Instr} {s t : State} (h : exec i s = .next t) : s.log <+: t.log := by
  obtain ⟨-, o, -, rfl⟩ | ⟨-, k, f, rfl⟩ | ⟨r, rfl⟩ := exec_cases h
  · exact List.prefix_rfl
  · exact List.prefix_append _ _
  · exact List.prefix_rfl

theorem hostCall_log_prefix {c : HostCall} {s t : State} (h : hostCall c s = .next t) : s.log <+: t.log := by
  obtain ⟨a, b, -, -, rfl⟩ | ⟨a, b, -, -, rfl⟩ | ⟨-, u, hu, rfl | ⟨-, rfl⟩⟩ := hostCall_cases h
  · exact List.prefix_rfl
  · exact List.prefix_rfl
  · exact hu.log_prefix
  · exact hu.log_prefix

/-! ### Which step is taken -/

theorem runNext_of_active {s : State} {a : ActiveCall} (ha : s.active = some a) :
    runNext s = resumeCall a { s with active := none, out := .undriven } := by
  simp only [runNext, ha]

/-! ### The obligations -/

/-- Settles O12: the write is sent, and a read of the register space after a register is written whole. -/
theorem echoWriteStoresOneWholeRegister : Obligations.EchoWriteStoresOneWholeRegister := by
  intro a d e s hl hd
  have hh : s.device.hangs = false := by rw [hd]; rfl
  refine ⟨_, xwrite_of_answered hl hh _, ?_, ?_, fun c => ?_⟩
  · rw [afterTransaction_result, answer_write_of_echo hd]
    rfl
  · rw [afterTransaction_device, hd]
    rfl
  · rw [afterTransaction_mem, hd, memAfter_echo_write, memRead_regWrite]
    by_cases hc : c = 2 * a.toNat
    · simp [hc]
    · simp [hc]

/-- Settles O25: `PACK` gives the value's bytes under `VORD`, and `ORDER` keeps or exchanges them. -/
theorem wireCarriesTheValueInTableOrder : Obligations.WireCarriesTheValueInTableOrder := by
  intro v a o w s s'
  refine ⟨bytes v o, writeCommand a (bytes v o) w, payloadOf_pack v o s, rfl, fun h => ?_, fun h => ?_⟩
  · rw [writeCommand, permute_bytes_low_first v h]
    exact ⟨low_byte_toNat v, high_byte_toNat v⟩
  · rw [writeCommand, permute_bytes_high_first v h]
    exact ⟨high_byte_toNat v, low_byte_toNat v⟩

/-- Settles O34: each of the four forms of a step keeps the log or appends to it. -/
theorem theLogOnlyGrows : Obligations.TheLogOnlyGrows := by
  intro s t h
  obtain ⟨-, ⟨a, -, hr⟩ | ⟨-, ⟨-, rfl⟩ | ⟨e, rest, i, -, -, hx⟩ | ⟨c, rest, -, hc⟩⟩⟩ := step_cases h
  · exact (resumeCall_run hr).2.log_prefix
  · exact List.prefix_rfl
  · exact (exec_log_prefix hx :)
  · exact (hostCall_log_prefix hc :)

/-- Settles O14: either frame is one transaction, which leaves nothing known of a device that is not ECHO. -/
theorem nothingIsKnownOfAnUnassumedDevice : Obligations.NothingIsKnownOfAnUnassumedDevice := by
  intro a d e s t hd h c
  obtain ⟨k, f, rfl⟩ := exec_commandFrame_eq_next h
  rw [afterTransaction_mem, memAfter_of_ne_echo hd, memRead_nil]

/-- Settles O39: on a well-formed map the operation under way comes first, and else the head is taken off and run. -/
theorem stepRunsTheHostOperation : Obligations.StepRunsTheHostOperation := by
  refine ⟨fun c rest s hm ha ht => ?_, fun a s hm ha => ?_⟩
  · rw [step_of_regmapWf hm, runNext_of_cons ha ht]
    rfl
  · rw [step_of_regmapWf hm, runNext_of_active ha]

end Sys2Proof.Machine
end

section
/-! PROOFS. Decoding and encoding (30_encoding.md R43 to R52): the decoder undoes the encoder, every three bytes are one
command, and what the framer drives is such a command. With them the read frame against ECHO (92_eei_decisions.md D19)
and the results of the pseudo-instructions (R54). -/

namespace Sys2Proof.Machine

/-! ### The decoder undoes the encoder -/

@[simp] theorem decodeOrder_encodeOrder (o : WireOrder) : decodeOrder (encodeOrder o) = o := by
  cases o with
  | direct => rfl
  | swapped => rfl

@[simp] theorem decodeVord_encodeVord (o : ValueOrder) : decodeVord (encodeVord o) = o := by
  cases o with
  | little => rfl
  | big => rfl

/-- The direction bit and the address of byte 0 are what a write frame is decoded from (R43, R45). -/
theorem decodeCommand_write (a : BitVec 7) (d e : Byte) :
    decodeCommand ⟨commandByte0 0#1 a, d, e⟩ = .writeFrame a d e := by
  simp [decodeCommand]

theorem decodeCommand_read (a : BitVec 7) (d e : Byte) :
    decodeCommand ⟨commandByte0 1#1 a, d, e⟩ = .readFrame a d e := by
  simp [decodeCommand]

/-- Three bytes handed to the transport are decoded as one command (R51). -/
theorem decode_command (f : Frame) : decode (.command [f.f0, f.f1, f.f2]) = .instr (decodeCommand f) := rfl

/-- The words of an instruction stand for it: the operation code picks the row, and the row's operands are read from
the ports and bytes they were put on (R43 to R49). -/
theorem decode_encode (i : Instr) : decode (encode i) = .instr i := by
  cases i with
  | encWr a p o => exact congrArg (fun o => Decoded.instr (.encWr a p o)) (decodeOrder_encodeOrder o)
  | encRd a => rfl
  | decRd r o => exact congrArg (fun o => Decoded.instr (.decRd r o)) (decodeOrder_encodeOrder o)
  | bfExt p v lo hi => exact congrArg (fun v => Decoded.instr (.bfExt p v lo hi)) (decodeVord_encodeVord v)
  | bfIns p v lo hi x => exact congrArg (fun v => Decoded.instr (.bfIns p v lo hi x)) (decodeVord_encodeVord v)
  | reserved101 => rfl
  | reserved110 => rfl
  | reserved111 => rfl
  | writeFrame a d e => exact congrArg Decoded.instr (decodeCommand_write a d e)
  | readFrame a d e => exact congrArg Decoded.instr (decodeCommand_read a d e)
  | readResponse x d e => rfl

/-! ### Every frame is one command -/

/-- Byte 0 is its direction bit above its address (R43). -/
theorem commandByte0_of_direction {rw : BitVec 1} {b : Byte} (h : b.getLsbD 7 = rw.getLsbD 0) :
    commandByte0 rw (b.extractLsb' 0 7) = b := by
  refine BitVec.eq_of_getLsbD_eq fun i hi => ?_
  rw [getLsbD_commandByte0]
  by_cases h7 : i < 7
  · simp [h7]
  · obtain rfl : i = 7 := by omega
    exact h.symm

/-- Byte 0 as a number: 128 for the direction bit, and the address (R43). -/
theorem byte0_toNat {rw : BitVec 1} {b : Byte} (h : b.getLsbD 7 = rw.getLsbD 0) :
    rw.toNat * 128 + (b.extractLsb' 0 7).toNat = b.toNat :=
  (commandByte0_toNat rw _).symm.trans (congrArg BitVec.toNat (commandByte0_of_direction h))

/-! ### Byte strings -/

/-- No other length is a frame (R43). -/
theorem frameOfBytes_of_length_ne {bs : List Byte} (h : bs.length ≠ 3) : frameOfBytes bs = none := by
  unfold frameOfBytes
  split
  · exact absurd rfl h
  · rfl

/-! ### The framer's frames -/

/-- `0x7F` selects the seven bits of the address (R45). -/
theorem getLsbD_addressMask (i : Nat) : (0x7F : Byte).getLsbD i = decide (i < 7) :=
  Nat.testBit_two_pow_sub_one 7 i

theorem getLsbD_writeByte0 (a : Byte) (i : Nat) : (writeByte0 a).getLsbD i = (a.getLsbD i && decide (i < 7)) := by
  rw [writeByte0, BitVec.getLsbD_and, getLsbD_addressMask]

/-- `ENC_WR`'s byte 0 is that of a write frame to `ADDR[6:0]` (R45). -/
theorem writeByte0_eq (a : Byte) : writeByte0 a = commandByte0 0#1 (BitVec.ofNat 7 a.toNat) := by
  refine BitVec.eq_of_getLsbD_eq fun i _ => ?_
  rw [getLsbD_writeByte0, getLsbD_commandByte0]
  by_cases h : i < 7
  · simp [h]
  · simp [h]

/-- `RW` on top of a write frame's byte 0 makes it a read frame's (R43). -/
theorem commandByte0_or_rw (r : BitVec 7) : commandByte0 0#1 r ||| 0x80 = commandByte0 1#1 r := by
  revert r
  decide

/-- `ENC_RD`'s byte 0 is that of a read frame of `ADDR[6:0]` (R45). -/
theorem readByte0_eq (a : Byte) : readByte0 a = commandByte0 1#1 (BitVec.ofNat 7 a.toNat) := by
  rw [← commandByte0_or_rw, ← writeByte0_eq]
  rfl

/-- The address mask takes bit 7 off, flipped or not (R45, D5). -/
theorem writeByte0_flip (a : Byte) : writeByte0 (a ^^^ 0x80) = writeByte0 a := by
  refine BitVec.eq_of_getLsbD_eq fun i _ => ?_
  have h80 : (0x80 : Byte).getLsbD i = decide (7 = i) := Nat.testBit_two_pow (n := 7)
  rw [getLsbD_writeByte0, getLsbD_writeByte0, BitVec.getLsbD_xor, h80]
  by_cases h : 7 = i
  · subst h
    simp
  · simp [h]

theorem writeCommand_flip (a : Byte) (p : Payload) (o : WireOrder) :
    writeCommand (a ^^^ 0x80) p o = writeCommand a p o := by
  rw [writeCommand, writeByte0_flip]
  rfl

theorem readCommand_flip (a : Byte) : readCommand (a ^^^ 0x80) = readCommand a := by
  rw [readCommand, readByte0, ← writeByte0, writeByte0_flip]
  rfl

/-- `ENC_WR` drives its frame (R55). -/
theorem exec_encWr (a : Byte) (p : Payload) (o : WireOrder) (s : State) :
    exec (.encWr a p o) s = .next (s.drive (.ofFrame (writeCommand a p o))) := rfl

/-- `ENC_RD` drives its frame (R56). -/
theorem exec_encRd (a : Byte) (s : State) : exec (.encRd a) s = .next (s.drive (.ofFrame (readCommand a))) := rfl

/-! ### A read frame against ECHO (D19) -/

/-- What ECHO answers to a read frame of a register: `0x00` and the register's two bytes (D19). -/
def echoResponse (m : Memory) (a : BitVec 7) : Frame := ⟨0x00, cellRead m (cellOf a 0), cellRead m (cellOf a 1)⟩

theorem reply_echo_read (m : Memory) (n : Nat) (a : BitVec 7) (d e : Byte) :
    Device.echo.reply m n ⟨commandByte0 1#1 a, d, e⟩ = echoResponse m a := by
  have hr : frameIsRead ⟨commandByte0 1#1 a, d, e⟩ = true := frameIsRead_command 1#1 a d e
  simp [Device.reply, hr, frameReg_command, echoResponse]

theorem memAfter_echo_read (m : Memory) (a : BitVec 7) (d e : Byte) :
    Device.echo.memAfter m ⟨commandByte0 1#1 a, d, e⟩ = m := by
  have hr : frameIsRead ⟨commandByte0 1#1 a, d, e⟩ = true := frameIsRead_command 1#1 a d e
  simp [Device.memAfter, hr]

theorem answer_echo_read {s : State} (h : s.device = .echo) (a : BitVec 7) (d e : Byte) :
    s.answer .transfer ⟨commandByte0 1#1 a, d, e⟩ = .received (echoResponse s.mem a) := by
  simp [State.answer, h, Device.failure, reply_echo_read]

/-- A read frame against ECHO as a step: its answer, and what later reads rest on (D19). -/
theorem exec_readFrame_of_echo {s : State} (hl : isLive s = true) (hd : s.device = .echo) (a : BitVec 7) (d e : Byte) :
    ∃ t, exec (.readFrame a d e) s = .next t ∧ t.response = some (echoResponse s.mem a) ∧
      t.result = some (.response (echoResponse s.mem a)) ∧ t.mem = s.mem ∧ t.device = .echo ∧ isLive t = true := by
  have hh : s.device.hangs = false := by rw [hd]; rfl
  refine ⟨_, xfer_of_answered hl hh _, ?_, ?_, ?_, ?_, hl⟩
  · rw [afterTransaction_response, answer_echo_read hd]
    rfl
  · rw [afterTransaction_result, answer_echo_read hd]
    rfl
  · rw [afterTransaction_mem, hd, memAfter_echo_read]
  · rw [afterTransaction_device, hd]
    rfl

/-- A byte that is known is the one read (log entry 7). -/
theorem cellRead_of_known {m : Memory} {c : Nat} {w : Byte} (h : memRead m c = some w) : cellRead m c = w := by
  rw [cellRead, h]
  rfl

/-! ### One bit of a value -/

theorem value_toNat (p : Payload) (o : ValueOrder) : (value p o).toNat = valueNat p o := by
  cases o with
  | little => exact cat_toNat p.p1 p.p0
  | big => exact cat_toNat p.p0 p.p1

theorem valueNat_bytes (v : Word16) (o : ValueOrder) : valueNat (bytes v o) o = v.toNat := by
  rw [← value_toNat, value_bytes]

theorem fieldOf_bfExt {lo hi : BitVec 4} (h : lo ≤ hi) (p : Payload) (o : ValueOrder) (s : State) :
    fieldOf (exec (.bfExt p o lo hi) s) =
      some (BitVec.ofNat 16 (valueNat p o / 2 ^ lo.toNat % 2 ^ rangeWidth lo hi)) := by
  show (bfExtOutputs p o lo hi).fieldOut = _
  rw [bfExtOutputs_legal h, ofField_fieldOut, ← value_toNat, ← extractField_toNat, BitVec.ofNat_toNat,
    BitVec.setWidth_eq]

theorem payloadOf_bfIns {lo hi : BitVec 4} {x : Word16} (h : lo ≤ hi) (hx : x.toNat < 2 ^ rangeWidth lo hi)
    (p : Payload) (o : ValueOrder) (s : State) :
    payloadOf (exec (.bfIns p o lo hi x) s) = some (bytes (insertField (value p o) lo hi x) o) := by
  show (bfInsOutputs p o lo hi x).payOut = _
  rw [bfInsOutputs, bfInsPayload_legal h hx, ofPayload_payOut]

theorem rangeWidth_single (n : BitVec 4) : rangeWidth n n = 1 := by
  rw [rangeWidth, Nat.sub_self]

/-- Inserting one bit changes that bit alone. -/
theorem getLsbD_insertField_single (v : Word16) (n : BitVec 4) {x : Word16} (hx : x.toNat < 2 ^ 1) (i : Nat) :
    (insertField v n n x).getLsbD i = if i = n.toNat then x.getLsbD 0 else v.getLsbD i := by
  have hn := n.isLt
  by_cases h16 : i < 16
  · rw [getLsbD_insertField v n n x i h16, rangeWidth_single]
    obtain h | rfl | h := lt_trichotomy i n.toNat
    · simp [h.not_ge, h.ne]
    · simp
    · have hb : x.getLsbD (i - n.toNat) = false :=
        Nat.testBit_lt_two_pow (hx.trans_le (Nat.pow_le_pow_right (by decide) (Nat.le_sub_of_add_le' h)))
      have hw : ¬ i - n.toNat < 1 := by omega
      simp [hb, hw, h.ne']
  · rw [BitVec.getLsbD_of_ge _ i (by omega), BitVec.getLsbD_of_ge v i (by omega), if_neg (by omega)]

/-- `BF_INS` of a one-bit value on a one-bit range gives a payload whose value has that bit (R61). -/
theorem payloadOf_bfIns_single (p : Payload) (o : ValueOrder) (n : BitVec 4) {x : Word16} (hx : x.toNat < 2 ^ 1)
    (s : State) : ∃ q, payloadOf (exec (.bfIns p o n n x) s) = some q ∧
      ∀ i, (valueNat q o).testBit i = if i = n.toNat then x.getLsbD 0 else (valueNat p o).testBit i := by
  refine ⟨_, payloadOf_bfIns (BitVec.le_refl n) ((rangeWidth_single n).symm ▸ hx) p o s, fun i => ?_⟩
  rw [valueNat_bytes, BitVec.testBit_toNat, getLsbD_insertField_single _ n hx, ← value_toNat, BitVec.testBit_toNat]

/-! ### The obligations -/

/-- Settles O17: the operation code picks the row and every operand is read back from where it was put. -/
theorem decodeUndoesEncode : Obligations.DecodeUndoesEncode :=
  decode_encode

/-- Settles O13: the first read leaves the state it needs to be answered the same again. -/
theorem echoReadAnswersTheRegister : Obligations.EchoReadAnswersTheRegister := by
  intro a d e s hl hd
  obtain ⟨t, ht, hresp, hres, hmem, hdev, hlive⟩ := exec_readFrame_of_echo hl hd a d e
  refine ⟨t, _, _, ht, hresp, hres, hmem, hdev, fun w => cellRead_of_known, fun w => cellRead_of_known,
    fun d' e' => ?_⟩
  obtain ⟨u, hu, huresp, -⟩ := exec_readFrame_of_echo hlive hdev a d' e'
  exact ⟨u, hu, by rw [huresp, hresp, hmem]⟩

/-- Settles O18: bit 7 of byte 0 says which command the frame is, and the command's own byte 0 is the frame's. -/
theorem everyFrameIsOneCommand : Obligations.EveryFrameIsOneCommand := by
  intro f
  cases h : f.f0.getLsbD 7 with
  | false =>
    have he : encode (.writeFrame (f.f0.extractLsb' 0 7) f.f1 f.f2) = .command [f.f0, f.f1, f.f2] := by
      rw [encode, commandByte0_of_direction h]
    refine ⟨_, he ▸ decode_encode _, he, fun _ => ⟨_, rfl, ?_⟩, fun h' => Bool.noConfusion h'⟩
    exact (Nat.zero_add _).symm.trans (byte0_toNat (rw := 0#1) h)
  | true =>
    have he : encode (.readFrame (f.f0.extractLsb' 0 7) f.f1 f.f2) = .command [f.f0, f.f1, f.f2] := by
      rw [encode, commandByte0_of_direction h]
    refine ⟨_, he ▸ decode_encode _, he, fun h' => Bool.noConfusion h', fun _ => ⟨_, rfl, ?_⟩⟩
    exact (Nat.add_comm _ _).trans (byte0_toNat (rw := 1#1) h)

/-- Settles O23: the frames are the encodings of the two commands to register `ADDR[6:0]`. -/
theorem framedCommandsDecodeToTheirRegister : Obligations.FramedCommandsDecodeToTheirRegister := by
  intro a p o s s'
  refine ⟨writeCommand a p o, readCommand a, rfl, rfl, ?_, ?_⟩
  · rw [writeCommand, writeByte0_eq]
    exact decode_encode (.writeFrame _ _ _)
  · rw [readCommand, readByte0_eq]
    exact decode_encode (.readFrame _ 0 0)

/-- Settles O29: each expansion is a legal extraction or insertion, of the whole value or of one bit of it. -/
theorem pseudoInstructionsGiveTheirResult : Obligations.PseudoInstructionsGiveTheirResult := by
  intro p v o n s
  refine ⟨?_, ?_, ?_, ?_, bytes v o, payloadOf_pack v o s, valueNat_bytes v o⟩
  · have hv : valueNat p o / 2 ^ 0 % 2 ^ 16 = valueNat p o := by
      rw [pow_zero, Nat.div_one, Nat.mod_eq_of_lt (value_toNat p o ▸ (value p o).isLt)]
    rw [expandPseudo, fieldOf_bfExt (by decide)]
    exact congrArg (fun k => some (BitVec.ofNat 16 k)) hv
  · rw [expandPseudo, fieldOf_bfExt (BitVec.le_refl n), rangeWidth_single]
    rfl
  · obtain ⟨q, hq, hbit⟩ := payloadOf_bfIns_single p o n (x := 1) (by decide) s
    refine ⟨q, hq, fun i => (hbit i).trans ?_⟩
    by_cases h : i = n.toNat
    · simp [h]
    · simp [h]
  · obtain ⟨q, hq, hbit⟩ := payloadOf_bfIns_single p o n (x := 0) (by decide) s
    refine ⟨q, hq, fun i => (hbit i).trans ?_⟩
    by_cases h : i = n.toNat
    · simp [h]
    · simp [h]

/-- Settles O15: holding a response is what the row means. -/
theorem readResponseIsHeldForTheDeframer : Obligations.ReadResponseIsHeldForTheDeframer :=
  fun _ _ _ _ => rfl

/-- Settles O19: three bytes make up a frame, and no other number of them does. -/
theorem onlyThreeBytesAreAFrame : Obligations.OnlyThreeBytesAreAFrame := by
  refine fun bs => ⟨fun h => ?_, fun h => ?_⟩
  · simp only [decode, frameOfBytes_of_length_ne h, and_self]
  · obtain ⟨x, y, z, rfl⟩ := List.length_eq_three.1 h
    exact ⟨⟨_, decode_command ⟨x, y, z⟩⟩, x, y, z, rfl⟩

/-- Settles O20: each word written out is the encoding of the instruction beside it. -/
theorem writtenOutWordsDecode : Obligations.WrittenOutWordsDecode :=
  ⟨decode_encode (.encWr 0x4C ⟨0x12, 0x34⟩ .swapped), decode_encode (.encRd 0x4C),
    decode_encode (.decRd ⟨0xFF, 0x40, 0x22⟩ .swapped), decode_encode (.bfExt ⟨0x03, 0xE8⟩ .big 0 10),
    decode_encode (.bfIns ⟨0x70, 0x40⟩ .little 1 1 1), decode_encode (.writeFrame 76 0x12 0x34),
    decode_encode (.readFrame 76 0 0), decode_encode (.readResponse 0xA5 0x03 0xE8)⟩

/-- Settles O22: the address enters a frame through byte 0 alone, where its top bit is masked off. -/
theorem topAddressBitIsDropped : Obligations.TopAddressBitIsDropped :=
  fun a p o s => ⟨by rw [exec_encWr, exec_encWr, writeCommand_flip], by rw [exec_encRd, exec_encRd, readCommand_flip]⟩

end Sys2Proof.Machine
end

section
/-! PROOFS. The framer (40_framer.md R55 to R57): the frame each command drives, and byte 0 of it bit by bit. -/

namespace Sys2Proof.Machine

/-! ### Byte 0 of a frame -/

/-- `0x80` selects the direction bit (R43). -/
theorem getLsbD_directionMask (i : Nat) : (0x80 : Byte).getLsbD i = decide (7 = i) :=
  Nat.testBit_two_pow (n := 7)

theorem getLsbD_readByte0 (a : Byte) (i : Nat) :
    (readByte0 a).getLsbD i = (a.getLsbD i && decide (i < 7) || decide (7 = i)) := by
  rw [readByte0, ← writeByte0, BitVec.getLsbD_or, getLsbD_writeByte0, getLsbD_directionMask]

/-- Masking the address first is no loss, as the one bit it takes off is the one that is then set (R45, R56). -/
theorem or_direction_eq_readByte0 (a : Byte) : a ||| 0x80 = readByte0 a := by
  refine BitVec.eq_of_getLsbD_eq fun i hi => ?_
  rw [BitVec.getLsbD_or, getLsbD_directionMask, getLsbD_readByte0]
  by_cases h : i < 7
  · simp [h]
  · obtain rfl : i = 7 := by omega
    simp

/-! ### The obligations -/

/-- Settles O1: each order keeps or exchanges the payload's bytes in the frame `ENC_WR` drives. -/
theorem encWrDrivesTheWriteFrame : Obligations.EncWrDrivesTheWriteFrame :=
  fun a p0 p1 s => ⟨exec_encWr a ⟨p0, p1⟩ .direct s, exec_encWr a ⟨p0, p1⟩ .swapped s⟩

/-- Settles O2: byte 0 of the frame `ENC_RD` drives is the address with the direction bit set. -/
theorem encRdDrivesTheReadFrame : Obligations.EncRdDrivesTheReadFrame := by
  intro a s
  refine ⟨?_, or_direction_eq_readByte0 a⟩
  rw [or_direction_eq_readByte0]
  exact exec_encRd a s

/-- Settles O21: byte 0 of both frames is known bit by bit. -/
theorem directionBitOfEveryCommand : Obligations.DirectionBitOfEveryCommand := by
  intro a p o s s'
  refine ⟨writeCommand a p o, readCommand a, rfl, rfl, ?_, ?_, fun i hi => ⟨?_, ?_⟩⟩
  · exact (getLsbD_writeByte0 a 7).trans (Bool.and_false _)
  · exact (getLsbD_readByte0 a 7).trans (Bool.or_true _)
  · simp [writeCommand, getLsbD_writeByte0, hi]
  · simp [readCommand, getLsbD_readByte0, hi, hi.ne']

end Sys2Proof.Machine
end

section
/-! PROOFS. The deframer (41_deframer.md R58, R59): the payload `DEC_RD` takes from a response, the round trip with
`ENC_WR`, and the same round trip made by the host against ECHO (45_register_access.md R70, R72; D19). -/

namespace Sys2Proof.Machine

/-! ### The payload of a response -/

/-- `DEC_RD` drives the payload of the response (R58). -/
theorem exec_decRd (r : Frame) (o : WireOrder) (s : State) :
    exec (.decRd r o) s = .next (s.drive (.ofPayload (responsePayload r o))) := rfl

/-- Encoding and decoding are the same permutation, and it is its own inverse (R46). -/
@[simp] theorem permute_permute (p : Payload) (o : WireOrder) : permute (permute p o) o = p := by
  cases o with
  | direct => rfl
  | swapped => rfl

/-- The data bytes a payload goes out as are decoded to it, whatever byte 0 is (R59). -/
theorem responsePayload_permute (x : Byte) (p : Payload) (o : WireOrder) :
    responsePayload ⟨x, (permute p o).p0, (permute p o).p1⟩ o = p :=
  permute_permute p o

/-! ### ECHO's response after a register was written (D19) -/

theorem echoResponse_regWrite_same (m : Memory) (a : BitVec 7) (w1 w2 : Byte) :
    echoResponse (regWrite m a w1 w2) a = ⟨0x00, w1, w2⟩ := by
  simp [echoResponse, cellRead, cellOf, memRead_regWrite]

/-- Two registers share no cell, so the other one's response stays. -/
theorem echoResponse_regWrite_of_ne {a b : BitVec 7} (h : b ≠ a) (m : Memory) (w1 w2 : Byte) :
    echoResponse (regWrite m a w1 w2) b = echoResponse m b := by
  have hn : b.toNat ≠ a.toNat := fun h' => h (BitVec.eq_of_toNat_eq h')
  simp (disch := omega) only [echoResponse, cellRead, cellOf, memRead_regWrite, if_neg]

/-- Addresses that differ in their low seven bits name different registers (R45). -/
theorem register_ne_of_masked_ne {a b : Byte} (h : b &&& 0x7F ≠ a &&& 0x7F) :
    BitVec.ofNat 7 b.toNat ≠ BitVec.ofNat 7 a.toNat := by
  intro he
  refine h ?_
  rw [← writeByte0, ← writeByte0, writeByte0_eq, writeByte0_eq, he]

/-! ### The host's raw write and register read against ECHO -/

/-- A raw write against ECHO, if it answers, was of a register of the map and stored the payload in its wire order; it
leaves a Live host with the same configuration against ECHO (R70, D19). -/
theorem writeRaw_eq_next_of_echo {a : Byte} {p : Payload} {s t : State} (hd : s.device = .echo)
    (h : hostCall (.writeRaw a p) s = .next t) :
    isLive t = true ∧ t.device = .echo ∧ t.cfg = s.cfg ∧ ∃ reg, findReg s.cfg.regmap a = some reg ∧
      t.mem = regWrite s.mem (BitVec.ofNat 7 a.toNat) (permute p reg.wireOrder).p0 (permute p reg.wireOrder).p1 := by
  obtain ⟨hl, hw⟩ := requireLive_eq_next h
  obtain ⟨reg, hr, -, rfl⟩ := writeRegister_eq_next hw
  refine ⟨hl, ?_, rfl, reg, hr, ?_⟩
  · rw [afterTransaction_device, hd]
    rfl
  · rw [afterTransaction_mem, hd, writeCommand, writeByte0_eq, memAfter_echo_write]

/-- A register read that answers was made by a Live host of a register of the map (R69, R72). -/
theorem readReg_eq_next {a : Byte} {s t : State} (h : hostCall (.readReg a) s = .next t) :
    isLive s = true ∧ ∃ reg, findReg s.cfg.regmap a = some reg := by
  obtain ⟨hl, hk⟩ := requireLive_eq_next h
  obtain ⟨reg, hr, -⟩ := readRegister_eq_next hk
  exact ⟨hl, reg, hr⟩

/-- A register read by a Live host against ECHO ends with the payload of ECHO's response (R72, D19). -/
theorem readReg_of_echo {a : Byte} {reg : RegDesc} {s : State} (hl : isLive s = true) (hd : s.device = .echo)
    (hr : findReg s.cfg.regmap a = some reg) :
    ∃ t, hostCall (.readReg a) s = .next t ∧
      t.result = some (.payload (responsePayload (echoResponse s.mem (BitVec.ofNat 7 a.toNat)) reg.wireOrder)) := by
  have hh : s.device.hangs = false := by rw [hd]; rfl
  have hresp : (s.afterTransaction .transfer (readCommand a)).response =
      some (echoResponse s.mem (BitVec.ofNat 7 a.toNat)) := by
    rw [afterTransaction_response, readCommand, readByte0_eq, answer_echo_read hd]
    rfl
  have hcall : hostCall (.readReg a) s =
      deliverPayload reg.wireOrder (s.afterTransaction .transfer (readCommand a)) := by
    rw [hostCall, requireLive_live hl, readRegister, withReg_some hr, takeFrame_encRd, transact_of_answered hh,
      andThen_next]
  obtain ⟨hn, -⟩ | ⟨r, hs, hdel⟩ :=
    deliverPayload_cases reg.wireOrder (s.afterTransaction .transfer (readCommand a))
  · cases hn.symm.trans hresp
  · cases hs.symm.trans hresp
    exact ⟨_, hcall.trans hdel, rfl⟩

/-! ### The obligations -/

/-- Settles O47: the write stores the payload's bytes in one register, which the read gets back in the same wire order;
any other register's bytes are as they were. -/
theorem echoReadsBackWhatWasWritten : Obligations.EchoReadsBackWhatWasWritten := by
  intro a p s t hd hw
  obtain ⟨hl, hdt, hcfg, reg, hr, hmem⟩ := writeRaw_eq_next_of_echo hd hw
  refine ⟨?_, fun b u hab hu => ?_⟩
  · obtain ⟨v, hv, hres⟩ := readReg_of_echo hl hdt (hcfg ▸ hr)
    refine ⟨v, hv, ?_⟩
    rw [hres, hmem, echoResponse_regWrite_same, responsePayload_permute]
  · obtain ⟨hls, regb, hrb⟩ := readReg_eq_next hu
    obtain ⟨u₀, hu₀, hbefore⟩ := readReg_of_echo hls hd hrb
    obtain rfl : u₀ = u := Host.Outcome.next.inj (hu₀.symm.trans hu)
    obtain ⟨v, hv, hafter⟩ := readReg_of_echo hl hdt (hcfg ▸ hrb)
    refine ⟨v, hv, ?_⟩
    rw [hafter, hbefore, hmem, echoResponse_regWrite_of_ne (register_ne_of_masked_ne hab)]

/-- Settles O3: `DEC_RD` drives the response's payload, and each order keeps or exchanges its bytes. -/
theorem decRdDrivesThePayload : Obligations.DecRdDrivesThePayload :=
  fun r0 r1 r2 s => ⟨exec_decRd ⟨r0, r1, r2⟩ .direct s, exec_decRd ⟨r0, r1, r2⟩ .swapped s⟩

/-- Settles O24: the frame is `writeCommand`'s, whose data bytes are decoded to the payload. -/
theorem decodingAnEchoGivesThePayload : Obligations.DecodingAnEchoGivesThePayload := by
  intro a x p o s s'
  refine ⟨writeCommand a p o, rfl, ?_⟩
  rw [exec_decRd]
  exact congrArg some (responsePayload_permute x p o)

end Sys2Proof.Machine
end

section
/-! PROOFS. The bitfield operations (42_bitfield.md R60, R61, R63): an insertion bit by bit and as a number, and the four
laws of insertion and extraction. -/

namespace Sys2Proof.Machine

/-! ### Bits of a range -/

/-- Bit `i` lies in `[lo, hi]`. -/
theorem bit_in_range_iff {lo hi : BitVec 4} (h : lo ≤ hi) (i : Nat) :
    (lo.toNat ≤ i ∧ i - lo.toNat < rangeWidth lo hi) ↔ (lo.toNat ≤ i ∧ i ≤ hi.toNat) := by
  have := BitVec.le_def.1 h
  unfold rangeWidth
  omega

/-- A value that fits has no bit at or above the width (R82). -/
theorem getLsbD_of_fits {x : Word16} {w i : Nat} (hx : x.toNat < 2 ^ w) (hi : w ≤ i) : x.getLsbD i = false :=
  Nat.testBit_lt_two_pow (hx.trans_le (Nat.pow_le_pow_right (by decide) hi))

/-- An insertion bit by bit: inside the range the value's bits, outside it the old ones (R61). -/
theorem getLsbD_insertField_legal {lo hi : BitVec 4} {x : Word16} (h : lo ≤ hi)
    (hx : x.toNat < 2 ^ rangeWidth lo hi) (v : Word16) (i : Nat) :
    (insertField v lo hi x).getLsbD i =
      if lo.toNat ≤ i ∧ i ≤ hi.toNat then x.getLsbD (i - lo.toNat) else v.getLsbD i := by
  have hhi := hi.isLt
  by_cases h16 : i < 16
  · rw [getLsbD_insertField v lo hi x i h16, ← Bool.decide_and]
    simp only [bit_in_range_iff h]
    by_cases hr : lo.toNat ≤ i ∧ i ≤ hi.toNat
    · simp [hr]
    · by_cases hl : lo.toNat ≤ i
      · have hb : x.getLsbD (i - lo.toNat) = false :=
          getLsbD_of_fits hx (not_lt.1 fun hw => hr ((bit_in_range_iff h i).1 ⟨hl, hw⟩))
        simp [hr, hb]
      · simp [hl]
  · rw [BitVec.getLsbD_of_ge _ i (by omega), BitVec.getLsbD_of_ge v i (by omega), if_neg (by omega)]

/-- An extraction as the number of its bits (R60). -/
theorem extractField_value (p : Payload) (o : ValueOrder) (lo hi : BitVec 4) :
    extractField (value p o) lo hi = BitVec.ofNat 16 (bitsNat (valueNat p o) lo.toNat hi.toNat) := by
  have hn : (extractField (value p o) lo hi).toNat = bitsNat (valueNat p o) lo.toNat hi.toNat := by
    rw [extractField_toNat, value_toNat]
    rfl
  rw [← hn, BitVec.ofNat_toNat, BitVec.setWidth_eq]

/-- What is extracted fits the range. -/
theorem extractField_fits (v : Word16) (lo hi : BitVec 4) : (extractField v lo hi).toNat < 2 ^ rangeWidth lo hi := by
  rw [extractField_toNat]
  exact Nat.mod_lt _ (Nat.two_pow_pos _)

/-! ### The laws of R63 on values -/

/-- R63 (a). -/
theorem extractField_insertField_same {lo hi : BitVec 4} {x : Word16} (h : lo ≤ hi)
    (hx : x.toNat < 2 ^ rangeWidth lo hi) (v : Word16) : extractField (insertField v lo hi x) lo hi = x := by
  refine BitVec.eq_of_getLsbD_eq fun i _ => ?_
  rw [getLsbD_extractField, getLsbD_insertField_legal h hx]
  by_cases hw : i < rangeWidth lo hi
  · have hr := (bit_in_range_iff h (lo.toNat + i)).1 ⟨by omega, by omega⟩
    simp [hw, hr]
  · simp [hw, getLsbD_of_fits hx (not_lt.1 hw)]

/-- R63 (b). -/
theorem extractField_insertField_disjoint {lo hi lo2 hi2 : BitVec 4} {x : Word16} (h : lo ≤ hi) (h2 : lo2 ≤ hi2)
    (hd : hi < lo2 ∨ hi2 < lo) (hx : x.toNat < 2 ^ rangeWidth lo hi) (v : Word16) :
    extractField (insertField v lo hi x) lo2 hi2 = extractField v lo2 hi2 := by
  rw [BitVec.lt_def, BitVec.lt_def] at hd
  refine BitVec.eq_of_getLsbD_eq fun i _ => ?_
  rw [getLsbD_extractField, getLsbD_extractField, getLsbD_insertField_legal h hx]
  by_cases hw : i < rangeWidth lo2 hi2
  · have hr := (bit_in_range_iff h2 (lo2.toNat + i)).1 ⟨by omega, by omega⟩
    rw [if_neg (by omega)]
  · simp [hw]

/-- R63 (c). -/
theorem insertField_extractField_same {lo hi : BitVec 4} (h : lo ≤ hi) (v : Word16) :
    insertField v lo hi (extractField v lo hi) = v := by
  refine BitVec.eq_of_getLsbD_eq fun i _ => ?_
  rw [getLsbD_insertField_legal h (extractField_fits v lo hi), getLsbD_extractField]
  by_cases hr : lo.toNat ≤ i ∧ i ≤ hi.toNat
  · have hw := ((bit_in_range_iff h i).2 hr).2
    simp [hr, hw]
  · rw [if_neg hr]

/-- R63 (d). -/
theorem insertField_comm {lo hi lo2 hi2 : BitVec 4} {x y : Word16} (h : lo ≤ hi) (h2 : lo2 ≤ hi2)
    (hd : hi < lo2 ∨ hi2 < lo) (hx : x.toNat < 2 ^ rangeWidth lo hi) (hy : y.toNat < 2 ^ rangeWidth lo2 hi2)
    (v : Word16) :
    insertField (insertField v lo hi x) lo2 hi2 y = insertField (insertField v lo2 hi2 y) lo hi x := by
  rw [BitVec.lt_def, BitVec.lt_def] at hd
  refine BitVec.eq_of_getLsbD_eq fun i _ => ?_
  simp only [getLsbD_insertField_legal h hx, getLsbD_insertField_legal h2 hy]
  by_cases hr : lo.toNat ≤ i ∧ i ≤ hi.toNat
  · rw [if_neg (by omega), if_pos hr, if_pos hr]
  · rw [if_neg hr, if_neg hr]

/-! ### An insertion as a number -/

/-- The bits an insertion keeps. -/
def outsideField (v : Word16) (lo hi : BitVec 4) : Word16 := v &&& ~~~ (rangeMask lo hi <<< lo.toNat)

/-- A value that fits, moved to its range, loses no bit. -/
theorem shifted_toNat {lo hi : BitVec 4} {x : Word16} (h : lo ≤ hi) (hx : x.toNat < 2 ^ rangeWidth lo hi) :
    (x <<< lo.toNat).toNat = x.toNat * 2 ^ lo.toNat := by
  have hhi := hi.isLt
  have hle := BitVec.le_def.1 h
  have hlt : x.toNat * 2 ^ lo.toNat < 2 ^ 16 := calc
    x.toNat * 2 ^ lo.toNat < 2 ^ rangeWidth lo hi * 2 ^ lo.toNat := Nat.mul_lt_mul_of_pos_right hx (Nat.two_pow_pos _)
    _ = 2 ^ (rangeWidth lo hi + lo.toNat) := (Nat.pow_add 2 _ _).symm
    _ ≤ 2 ^ 16 := Nat.pow_le_pow_right (by decide) (by unfold rangeWidth; omega)
  rw [BitVec.toNat_shiftLeft, Nat.shiftLeft_eq, Nat.mod_eq_of_lt hlt]

/-- The bits kept and the bits put in do not overlap. -/
theorem outsideField_and_shifted {lo hi : BitVec 4} {x : Word16} (hx : x.toNat < 2 ^ rangeWidth lo hi) (v : Word16) :
    outsideField v lo hi &&& (x <<< lo.toNat) = 0 := by
  refine BitVec.eq_of_getLsbD_eq fun i h16 => ?_
  rw [BitVec.getLsbD_and, outsideField, BitVec.getLsbD_and, BitVec.getLsbD_not, BitVec.getLsbD_shiftLeft,
    BitVec.getLsbD_shiftLeft, getLsbD_rangeMask]
  by_cases hw : i - lo.toNat < rangeWidth lo hi
  · by_cases hl : i < lo.toNat
    · simp [hl]
    · simp [h16, hl, hw]
  · simp [getLsbD_of_fits hx (not_lt.1 hw)]

/-- So an insertion adds the two (R61). -/
theorem insertField_toNat {lo hi : BitVec 4} {x : Word16} (h : lo ≤ hi) (hx : x.toNat < 2 ^ rangeWidth lo hi)
    (v : Word16) : (insertField v lo hi x).toNat = (outsideField v lo hi).toNat + x.toNat * 2 ^ lo.toNat := by
  have hd := outsideField_and_shifted hx v
  rw [insertField, ← outsideField, ← BitVec.add_eq_or_of_and_eq_zero _ _ hd, BitVec.toNat_add_of_and_eq_zero hd,
    shifted_toNat h hx]

/-- The value after an insertion, with the old field put back, is the value before with the new field put in: both are
the bits kept and the two fields. -/
theorem insertField_toNat_add_extractField {lo hi : BitVec 4} {x : Word16} (h : lo ≤ hi)
    (hx : x.toNat < 2 ^ rangeWidth lo hi) (v : Word16) :
    (insertField v lo hi x).toNat + (extractField v lo hi).toNat * 2 ^ lo.toNat =
      v.toNat + x.toNat * 2 ^ lo.toNat := by
  have hv := insertField_toNat h (extractField_fits v lo hi) v
  rw [insertField_extractField_same h] at hv
  rw [insertField_toNat h hx, hv]
  exact Nat.add_right_comm _ _ _

/-! ### The operations on legal operands -/

/-- `BF_EXT` on a legal range as a step (R60). -/
theorem exec_bfExt_legal {lo hi : BitVec 4} (h : lo ≤ hi) (p : Payload) (o : ValueOrder) (s : State) :
    exec (.bfExt p o lo hi) s = .next (s.drive (.ofField (extractField (value p o) lo hi))) := by
  show Host.Outcome.next (s.drive (bfExtOutputs p o lo hi)) = _
  rw [bfExtOutputs_legal h]

/-- `BF_INS` on a legal range with a value that fits as a step (R61). -/
theorem exec_bfIns_legal {lo hi : BitVec 4} {x : Word16} (h : lo ≤ hi) (hx : x.toNat < 2 ^ rangeWidth lo hi)
    (p : Payload) (o : ValueOrder) (s : State) :
    exec (.bfIns p o lo hi x) s = .next (s.drive (.ofPayload (bytes (insertField (value p o) lo hi x) o))) := by
  show Host.Outcome.next (s.drive (bfInsOutputs p o lo hi x)) = _
  rw [bfInsOutputs, bfInsPayload_legal h hx]

/-- `FIELD_OUT` of a legal extraction. -/
theorem fieldOf_bfExt_legal {lo hi : BitVec 4} (h : lo ≤ hi) (p : Payload) (o : ValueOrder) (s : State) :
    fieldOf (exec (.bfExt p o lo hi) s) = some (extractField (value p o) lo hi) := by
  rw [exec_bfExt_legal h]
  rfl

/-! ### The obligations -/

/-- Settles O4: what is extracted is the number of the range's bits. -/
theorem bfExtDrivesTheField : Obligations.BfExtDrivesTheField := by
  intro p o lo hi s h
  rw [exec_bfExt_legal h, extractField_value]
  rfl

/-- Settles O5: the old value and the new one are the bits kept and their own field. -/
theorem bfInsDrivesThePayload : Obligations.BfInsDrivesThePayload := by
  intro p o lo hi x s h hx
  refine ⟨_, exec_bfIns_legal h hx p o s, ?_⟩
  have hv := insertField_toNat_add_extractField h hx (value p o)
  rw [extractField_toNat, value_toNat] at hv
  rw [valueNat_bytes]
  exact hv

/-- Settles O26: laws (a) and (c) on the payload's value. -/
theorem insertAndExtractAreInverse : Obligations.InsertAndExtractAreInverse := by
  intro p o lo hi x s s' h
  refine ⟨fun hx => ⟨_, payloadOf_bfIns h hx p o s, ?_⟩, _, fieldOf_bfExt_legal h p o s, ?_⟩
  · rw [fieldOf_bfExt_legal h, value_bytes, extractField_insertField_same h hx]
  · rw [payloadOf_bfIns h (extractField_fits _ lo hi), insertField_extractField_same h, bytes_value]

/-- Settles O27: law (b) on the payload's value. -/
theorem insertKeepsDisjointRanges : Obligations.InsertKeepsDisjointRanges := by
  intro p o lo hi lo2 hi2 x s s' h h2 hd hx
  refine ⟨_, _, payloadOf_bfIns h hx p o s, ?_, fieldOf_bfExt_legal h2 p o s'⟩
  rw [fieldOf_bfExt_legal h2, value_bytes, extractField_insertField_disjoint h h2 hd hx]

/-- Settles O28: law (d) on the payload's value. -/
theorem disjointInsertsCommute : Obligations.DisjointInsertsCommute := by
  intro p o lo hi lo2 hi2 x y s h h2 hd hx hy
  refine ⟨_, _, _, payloadOf_bfIns h hx p o s, payloadOf_bfIns h2 hy p o s, payloadOf_bfIns h2 hy _ o s, ?_⟩
  rw [payloadOf_bfIns h hx, value_bytes, value_bytes, insertField_comm h h2 hd hx hy]

end Sys2Proof.Machine
end

section
/-! PROOFS. Assembling a field-level write (42_bitfield.md R64, R99): on a well-formed map every setting that fits is
inserted, so assembling folds the settings into the value of the base; what each bit and each field of the result is, and
that settings of different fields commute. -/

namespace Sys2Proof.Machine

/-! ### The fields of a well-formed map's register -/

/-- What R18 and R19 ask of the fields of one register. -/
structure FieldsWf (reg : RegDesc) : Prop where
  range : ∀ f ∈ reg.fields, f.lo ≤ f.hi ∧ f.hi ≤ 15
  kind : ∀ f ∈ reg.fields, fieldKindOk f = true
  apart : reg.fields.Pairwise fieldsApart
  names : (reg.fields.map FieldDesc.name).Nodup

theorem fieldsWf_of_mem {m : Regmap} {reg : RegDesc} (hm : RegmapWf m) (hr : reg ∈ m) : FieldsWf reg := by
  obtain ⟨-, -, -, hrange, hkind, hapart, hnames⟩ := regmapWf_checks hm
  exact ⟨hrange reg hr, hkind reg hr, hapart reg hr, hnames reg hr⟩

theorem fieldsWf_of_findReg {m : Regmap} {a : Byte} {reg : RegDesc} (hm : RegmapWf m) (hr : findReg m a = some reg) :
    FieldsWf reg :=
  fieldsWf_of_mem hm (findReg_some hr).1

/-- Two different fields of one register share no bit. -/
theorem FieldsWf.apart_of_ne {reg : RegDesc} (hw : FieldsWf reg) {f g : FieldDesc} (hf : f ∈ reg.fields)
    (hg : g ∈ reg.fields) (h : f ≠ g) : fieldsApart f g := by
  have : Std.Symm fieldsApart := ⟨fun _ _ => Or.symm⟩
  exact hw.apart.forall hf hg h

/-! ### Settings that fit -/

/-- The setting is of the register's field and fits it (R71). -/
def FitsRegister (reg : RegDesc) (x : FieldDesc × Word16) : Prop := x.1 ∈ reg.fields ∧ x.2.toNat < 2 ^ fieldWidth x.1

/-- A field of a value replaced. -/
def setField (v : Word16) (x : FieldDesc × Word16) : Word16 := insertField v (fieldLo x.1) (fieldHi x.1) x.2

/-- The settings that clear every named field (R64). -/
def clearingSettings (reg : RegDesc) : List (FieldDesc × Word16) := reg.fields.map fun f => (f, 0)

/-- The value a field-level write starts from (R64, D32). -/
def baseValue (d : UnsetDefault) (reg : RegDesc) : Word16 :=
  match d with
  | .resetValue => value reg.resetValue reg.byteOrder
  | .zero => (clearingSettings reg).foldl setField (value reg.resetValue reg.byteOrder)

theorem fitsRegister_clearing {reg : RegDesc} : ∀ x ∈ clearingSettings reg, FitsRegister reg x := by
  intro x hx
  obtain ⟨f, hf, rfl⟩ := List.mem_map.1 hx
  exact ⟨hf, Nat.two_pow_pos _⟩

section
variable {reg : RegDesc} (hw : FieldsWf reg)
include hw

/-- A setting that fits meets what `BF_INS` asks of its operands (R61, R82). -/
theorem FieldsWf.legal {x : FieldDesc × Word16} (hx : FitsRegister reg x) :
    fieldLo x.1 ≤ fieldHi x.1 ∧ x.2.toNat < 2 ^ rangeWidth (fieldLo x.1) (fieldHi x.1) := by
  have hr := hw.range _ hx.1
  rw [fieldRange_width hr]
  exact ⟨fieldRange_legal hr, hx.2⟩

/-- A setting replaces the bits of its field alone. -/
theorem FieldsWf.getLsbD_setField {x : FieldDesc × Word16} (hx : FitsRegister reg x) (v : Word16) (i : Nat) :
    (setField v x).getLsbD i =
      if x.1.lo ≤ i ∧ i ≤ x.1.hi then x.2.getLsbD (i - x.1.lo) else v.getLsbD i := by
  have hr := hw.range _ hx.1
  obtain ⟨hlegal, hfits⟩ := hw.legal hx
  rw [setField, getLsbD_insertField_legal hlegal hfits, fieldLo_toNat hr, fieldHi_toNat hr]

/-- The field just set holds the value, by law (a) of R63. -/
theorem FieldsWf.extractField_setField_same {f : FieldDesc} {x : Word16} (hx : FitsRegister reg (f, x)) (v : Word16) :
    extractField (setField v (f, x)) (fieldLo f) (fieldHi f) = x :=
  extractField_insertField_same (hw.legal hx).1 (hw.legal hx).2 v

/-- Any other field is as it was, by law (b) of R63. -/
theorem FieldsWf.extractField_setField_of_ne {f : FieldDesc} (hf : f ∈ reg.fields) {x : FieldDesc × Word16}
    (hx : FitsRegister reg x) (hne : x.1 ≠ f) (v : Word16) :
    extractField (setField v x) (fieldLo f) (fieldHi f) = extractField v (fieldLo f) (fieldHi f) := by
  obtain ⟨hlegal, hfits⟩ := hw.legal hx
  have hd := fieldRange_apart (hw.range _ hx.1) (hw.range f hf) (hw.apart_of_ne hx.1 hf hne)
  exact extractField_insertField_disjoint hlegal (fieldRange_legal (hw.range f hf)) hd hfits v

/-- Settings of different fields commute, by law (d) of R63. -/
theorem FieldsWf.setField_comm {x y : FieldDesc × Word16} (hx : FitsRegister reg x) (hy : FitsRegister reg y)
    (hne : x.1 ≠ y.1) (v : Word16) : setField (setField v x) y = setField (setField v y) x := by
  obtain ⟨hlx, hfx⟩ := hw.legal hx
  obtain ⟨hly, hfy⟩ := hw.legal hy
  have hd := fieldRange_apart (hw.range _ hx.1) (hw.range _ hy.1) (hw.apart_of_ne hx.1 hy.1 hne)
  exact insertField_comm hlx hly hd hfx hfy v

/-! ### Settings folded into a value -/

/-- A bit outside the fields set stays. -/
theorem FieldsWf.getLsbD_foldl_outside {fs : List (FieldDesc × Word16)} (hfs : ∀ x ∈ fs, FitsRegister reg x) {i : Nat}
    (ho : ∀ x ∈ fs, ¬ (x.1.lo ≤ i ∧ i ≤ x.1.hi)) (v : Word16) : (fs.foldl setField v).getLsbD i = v.getLsbD i := by
  induction fs generalizing v with
  | nil => rfl
  | cons x xs ih =>
    obtain ⟨hx, hxs⟩ := List.forall_mem_cons.1 hfs
    obtain ⟨hox, hoxs⟩ := List.forall_mem_cons.1 ho
    rw [List.foldl_cons, ih hxs hoxs, hw.getLsbD_setField hx, if_neg hox]

/-- A bit that is 0, or in a field set to 0, is 0 after settings to 0. -/
theorem FieldsWf.getLsbD_foldl_zero {fs : List (FieldDesc × Word16)} (hfs : ∀ x ∈ fs, FitsRegister reg x)
    (hz : ∀ x ∈ fs, x.2 = 0) {i : Nat} {v : Word16}
    (hi : v.getLsbD i = false ∨ ∃ x ∈ fs, x.1.lo ≤ i ∧ i ≤ x.1.hi) : (fs.foldl setField v).getLsbD i = false := by
  induction fs generalizing v with
  | nil => simpa using hi
  | cons x xs ih =>
    obtain ⟨hx, hxs⟩ := List.forall_mem_cons.1 hfs
    obtain ⟨hzx, hzxs⟩ := List.forall_mem_cons.1 hz
    refine ih hxs hzxs ?_
    rw [hw.getLsbD_setField hx, hzx]
    by_cases hr : x.1.lo ≤ i ∧ i ≤ x.1.hi
    · exact .inl (by simp [hr])
    · rw [if_neg hr]
      exact hi.imp_right fun h => by simpa [hr] using h

/-- A field none of the settings is of holds what it held. -/
theorem FieldsWf.extractField_foldl_of_ne {f : FieldDesc} (hf : f ∈ reg.fields) {fs : List (FieldDesc × Word16)}
    (hfs : ∀ x ∈ fs, FitsRegister reg x) (hne : ∀ x ∈ fs, x.1 ≠ f) (v : Word16) :
    extractField (fs.foldl setField v) (fieldLo f) (fieldHi f) = extractField v (fieldLo f) (fieldHi f) := by
  induction fs generalizing v with
  | nil => rfl
  | cons x xs ih =>
    obtain ⟨hx, hxs⟩ := List.forall_mem_cons.1 hfs
    obtain ⟨hnx, hnxs⟩ := List.forall_mem_cons.1 hne
    rw [List.foldl_cons, ih hxs hnxs, hw.extractField_setField_of_ne hf hx hnx]

/-- The order of settings of different fields is no matter. -/
theorem FieldsWf.foldl_setField_perm {fs gs : List (FieldDesc × Word16)} (hfs : ∀ x ∈ fs, FitsRegister reg x)
    (hn : (fs.map Prod.fst).Nodup) (hp : fs.Perm gs) (v : Word16) : gs.foldl setField v = fs.foldl setField v := by
  refine (hp.foldl_eq' (fun x hx y hy u => ?_) v).symm
  by_cases h : x = y
  · rw [h]
  · exact hw.setField_comm (hfs x hx) (hfs y hy) (fun he => h (List.inj_on_of_nodup_map hn hx hy he)) u

/-! ### Assembling -/

/-- Settings that fit are all inserted (R64). -/
theorem FieldsWf.insertAll_eq {fs : List (FieldDesc × Word16)} (hfs : ∀ x ∈ fs, FitsRegister reg x) (o : ValueOrder)
    (p : Payload) : insertAll o fs p = .ok (bytes (fs.foldl setField (value p o)) o) := by
  induction fs generalizing p with
  | nil => exact congrArg Except.ok (bytes_value p o).symm
  | cons x xs ih =>
    obtain ⟨hx, hxs⟩ := List.forall_mem_cons.1 hfs
    obtain ⟨hlegal, hfits⟩ := hw.legal hx
    simp only [insertAll, bfInsPayload_legal hlegal hfits, ih hxs, value_bytes, List.foldl_cons, setField]

theorem FieldsWf.writeBase_eq (d : UnsetDefault) : writeBase d reg = .ok (bytes (baseValue d reg) reg.byteOrder) := by
  cases d with
  | resetValue => exact congrArg Except.ok (bytes_value _ _).symm
  | zero => exact hw.insertAll_eq fitsRegister_clearing reg.byteOrder reg.resetValue

/-- Assembling settings that fit folds them into the value of the base (R64). -/
theorem FieldsWf.assemble_eq (d : UnsetDefault) {fs : List (FieldDesc × Word16)}
    (hfs : ∀ x ∈ fs, FitsRegister reg x) :
    assemble d reg fs = .ok (bytes (fs.foldl setField (baseValue d reg)) reg.byteOrder) := by
  rw [assemble, hw.writeBase_eq]
  exact (hw.insertAll_eq hfs _ _).trans (by rw [value_bytes])

/-- A bit outside the fields set is the base's. -/
theorem FieldsWf.testBit_assembled_outside (d : UnsetDefault) {fs : List (FieldDesc × Word16)}
    (hfs : ∀ x ∈ fs, FitsRegister reg x) {i : Nat} (ho : ∀ x ∈ fs, ¬ (x.1.lo ≤ i ∧ i ≤ x.1.hi)) :
    (valueNat (bytes (fs.foldl setField (baseValue d reg)) reg.byteOrder) reg.byteOrder).testBit i =
      (baseValue d reg).getLsbD i := by
  rw [valueNat_bytes, BitVec.testBit_toNat, hw.getLsbD_foldl_outside hfs ho]

/-- Under `ZERO` the base is 0 in every named field (R64). -/
theorem FieldsWf.getLsbD_baseValue_zero_named {i : Nat} (h : ∃ f ∈ reg.fields, f.lo ≤ i ∧ i ≤ f.hi) :
    (baseValue .zero reg).getLsbD i = false := by
  obtain ⟨f, hf, hi⟩ := h
  refine hw.getLsbD_foldl_zero fitsRegister_clearing (fun x hx => ?_) (.inr ⟨(f, 0), List.mem_map.2 ⟨f, hf, rfl⟩, hi⟩)
  obtain ⟨g, -, rfl⟩ := List.mem_map.1 hx
  rfl

/-- Under `ZERO` the base keeps the reset value in no named field (R64). -/
theorem FieldsWf.getLsbD_baseValue_zero_unnamed {i : Nat} (h : ∀ f ∈ reg.fields, ¬ (f.lo ≤ i ∧ i ≤ f.hi)) :
    (baseValue .zero reg).getLsbD i = (value reg.resetValue reg.byteOrder).getLsbD i := by
  refine hw.getLsbD_foldl_outside fitsRegister_clearing (fun x hx => ?_) _
  obtain ⟨g, hg, rfl⟩ := List.mem_map.1 hx
  exact h g hg

end

/-- A payload's bits are its value's. -/
theorem getLsbD_value (p : Payload) (o : ValueOrder) (i : Nat) : (value p o).getLsbD i = (valueNat p o).testBit i := by
  rw [← BitVec.testBit_toNat, value_toNat]

/-- The bits of a field, extracted through the 4-bit ports, as a number. -/
theorem extractField_field_toNat {f : FieldDesc} (hf : f.lo ≤ f.hi ∧ f.hi ≤ 15) (v : Word16) :
    (extractField v (fieldLo f) (fieldHi f)).toNat = bitsNat v.toNat f.lo f.hi := by
  rw [extractField_toNat, fieldRange_width hf, fieldLo_toNat hf]
  rfl

/-! ### The obligations -/

/-- Settles O51: a bit outside the fields set is the base's, and the base is the reset value, with the named fields
cleared under `ZERO`. -/
theorem bitsNotSetTakeTheirDefault : Obligations.BitsNotSetTakeTheirDefault := by
  intro m reg fs hm hr hfs
  have hw := fieldsWf_of_mem hm hr
  refine ⟨⟨_, hw.assemble_eq .resetValue hfs, fun i ho => ?_⟩, _, hw.assemble_eq .zero hfs, fun i ho => ⟨fun h => ?_,
    fun h => ?_⟩⟩
  · exact (hw.testBit_assembled_outside .resetValue hfs ho).trans (getLsbD_value _ _ i)
  · exact (hw.testBit_assembled_outside .zero hfs ho).trans (hw.getLsbD_baseValue_zero_named h)
  · rw [hw.testBit_assembled_outside .zero hfs ho, hw.getLsbD_baseValue_zero_unnamed h, getLsbD_value]

/-- Settles O52: the last setting leaves its value in the field, and the settings after it are of other fields. -/
theorem theLastSettingOfAFieldIsWritten : Obligations.TheLastSettingOfAFieldIsWritten := by
  intro m reg d fs gs f v hm hr hf hv hall hne
  have hw := fieldsWf_of_mem hm hr
  obtain ⟨hfs, hgs⟩ := List.forall_mem_append.1 hall
  have hfits : ∀ x ∈ fs ++ (f, v) :: gs, FitsRegister reg x :=
    List.forall_mem_append.2 ⟨hfs, List.forall_mem_cons.2 ⟨⟨hf, hv⟩, hgs⟩⟩
  refine ⟨_, hw.assemble_eq d hfits, ?_⟩
  rw [valueNat_bytes, ← extractField_field_toNat (hw.range f hf), List.foldl_append, List.foldl_cons,
    hw.extractField_foldl_of_ne hf hgs hne, hw.extractField_setField_same ⟨hf, hv⟩]

/-- Settles O53: settings of different fields commute. -/
theorem settingOrderDoesNotMatter : Obligations.SettingOrderDoesNotMatter := by
  intro m reg d fs gs hm hr hfs hn hp
  have hw := fieldsWf_of_mem hm hr
  have hgs : ∀ x ∈ gs, FitsRegister reg x := fun x hx => hfs x (hp.mem_iff.2 hx)
  rw [hw.assemble_eq d hfs, hw.assemble_eq d hgs, hw.foldl_setField_perm hfs hn hp]

end Sys2Proof.Machine
end

section
/-! PROOFS. Field-level access by the host (45_register_access.md R71, R73; 42_bitfield.md R62, R65): reading a named field,
and a field-level write as one write of the assembled payload. -/

namespace Sys2Proof.Machine

/-! ### Looking a named field up -/

/-- With distinct names a field is found by its name (R18). -/
theorem findField_of_mem {fs : List FieldDesc} (hn : (fs.map FieldDesc.name).Nodup) {f : FieldDesc} (hf : f ∈ fs) :
    findField fs f.name = some f := by
  induction fs with
  | nil => cases hf
  | cons g gs ih =>
    obtain ⟨hg, hgs⟩ := List.nodup_cons.1 hn
    rcases List.mem_cons.1 hf with rfl | hf
    · simp [findField]
    · have hne : g.name ≠ f.name := fun h => hg (h ▸ List.mem_map_of_mem hf)
      rw [findField, if_neg hne, ih hgs hf]

theorem withNamedField_some {a : Byte} {n : String} {s : State} {reg : RegDesc} {f : FieldDesc}
    (hr : findReg s.cfg.regmap a = some reg) (hf : findField reg.fields n = some f)
    (k : RegDesc → FieldDesc → Result) : withNamedField a n s k = k reg f := by
  rw [withNamedField, withReg_some hr, hf]

/-! ### Reading a named field -/

/-- A register read that is answered: the response's payload, or the transport's error (R72). -/
theorem readRegister_of_answered {a : Byte} {reg : RegDesc} {s : State} (hr : findReg s.cfg.regmap a = some reg)
    (ha : s.device.hangs = false) :
    (∃ r, s.answer .transfer (readCommand a) = .received r ∧ readRegister a s =
      .next ((s.afterTransaction .transfer (readCommand a)).finish (.payload (responsePayload r reg.wireOrder)))) ∨
    ∃ x, s.answer .transfer (readCommand a) = .failed x ∧
      readRegister a s = .next (s.afterTransaction .transfer (readCommand a)) := by
  have hcall : readRegister a s = deliverPayload reg.wireOrder (s.afterTransaction .transfer (readCommand a)) := by
    rw [readRegister, withReg_some hr, takeFrame_encRd, transact_of_answered ha, andThen_next]
  obtain ⟨r, h⟩ | ⟨x, h⟩ := answer_transfer_cases s (readCommand a)
  · exact .inl ⟨r, h, by simp [hcall, deliverPayload, h, Answer.captured]⟩
  · exact .inr ⟨x, h, by simp [hcall, deliverPayload, h, Answer.captured]⟩

/-- On a legal range the field of the payload just read is extracted (R60). -/
theorem withField_payload {reg : RegDesc} {f : FieldDesc} {s : State} {p : Payload}
    (hf : f.lo ≤ f.hi ∧ f.hi ≤ 15) (hp : s.result = some (.payload p)) (k : Word16 → State → Result) :
    withField reg f k s = k (extractField (value p reg.byteOrder) (fieldLo f) (fieldHi f)) s := by
  simp only [withField, hp, bfExtOutputs_legal (fieldRange_legal hf)]
  rfl

/-- What a named field read makes of the response received (R62, R73). -/
def fieldOfResponse (reg : RegDesc) (f : FieldDesc) (r : Frame) : HostResult :=
  fieldResult f (extractField (value (responsePayload r reg.wireOrder) reg.byteOrder) (fieldLo f) (fieldHi f))

/-- A named field read that is answered: the field of the response's payload, or the transport's error (R73). -/
theorem readNamedField_of_answered {a : Byte} {n : String} {reg : RegDesc} {f : FieldDesc} {s : State}
    (hr : findReg s.cfg.regmap a = some reg) (hn : findField reg.fields n = some f) (hf : f.lo ≤ f.hi ∧ f.hi ≤ 15)
    (ha : s.device.hangs = false) :
    ∃ t, readNamedField a n s = .next t ∧ sameHost s t ∧
      t.log = s.log ++ [⟨.transfer, readCommand a, s.answer .transfer (readCommand a)⟩] ∧
      ((∃ r, s.answer .transfer (readCommand a) = .received r ∧
          t.result = some (fieldOfResponse reg f r)) ∨
       ∃ x, s.answer .transfer (readCommand a) = .failed x ∧ t.result = some (.transportError x)) := by
  have hsame := sameHost_afterTransaction s .transfer (readCommand a)
  rw [readNamedField, withNamedField_some hr hn]
  obtain ⟨r, hx, hread⟩ | ⟨x, hx, hread⟩ := readRegister_of_answered hr ha
  · refine ⟨(s.afterTransaction .transfer (readCommand a)).finish (fieldOfResponse reg f r), ?_, hsame, rfl,
      .inl ⟨r, hx, rfl⟩⟩
    rw [hread, unlessFailed, andThen_next, finish_result, withField_payload hf rfl]
    rfl
  · refine ⟨_, ?_, hsame, rfl, .inr ⟨x, hx, by rw [afterTransaction_result, hx]; rfl⟩⟩
    rw [hread, unlessFailed, andThen_next, afterTransaction_result, hx]
    rfl

/-- A one-bit extraction is not 0 exactly when the bit is set (R62). -/
theorem extractField_single_ne_zero (v : Word16) (n : BitVec 4) :
    (extractField v n n != 0) = v.toNat.testBit n.toNat := by
  have hn : (extractField v n n).toNat = v.toNat / 2 ^ n.toNat % 2 := by
    rw [extractField_toNat, rangeWidth_single, pow_one]
  have hz : extractField v n n = 0 ↔ v.toNat / 2 ^ n.toNat % 2 = 0 := by
    rw [← hn]
    exact BitVec.toNat_inj.symm
  rw [Nat.testBit_eq_decide_div_mod_eq, Bool.eq_iff_iff, bne_iff_ne, ne_eq, hz, decide_eq_true_eq]
  omega

/-- A bool is whether its bit is set (R62, D28). -/
theorem fieldResult_bool {f : FieldDesc} (hk : f.kind = .bool) (hok : fieldKindOk f = true)
    (hf : f.lo ≤ f.hi ∧ f.hi ≤ 15) (v : Word16) :
    fieldResult f (extractField v (fieldLo f) (fieldHi f)) = .bool (v.toNat.testBit f.lo) := by
  have heq : f.lo = f.hi := by simpa [fieldKindOk, hk] using hok
  have hhi : fieldHi f = fieldLo f := by rw [fieldHi, fieldLo, heq]
  rw [hhi, fieldResult, hk, ← fieldLo_toNat hf]
  exact congrArg HostResult.bool (extractField_single_ne_zero v (fieldLo f))

/-- An unsigned field is the number of its bits (R62). -/
theorem fieldResult_unsigned {f : FieldDesc} (hk : f.kind = .unsigned) (hf : f.lo ≤ f.hi ∧ f.hi ≤ 15) (v : Word16) :
    fieldResult f (extractField v (fieldLo f) (fieldHi f)) =
      .unsigned (BitVec.ofNat 16 (bitsNat v.toNat f.lo f.hi)) := by
  rw [fieldResult, hk, ← extractField_field_toNat hf, BitVec.ofNat_toNat, BitVec.setWidth_eq]

/-! ### Field-level writes -/

/-- The setting by name of a field and its value (R64). -/
def settingOf (x : FieldDesc × Word16) : Setting := ⟨x.1.name, x.2⟩

/-- Settings that fit resolve to themselves (R71). -/
theorem FieldsWf.resolveSettings_eq {reg : RegDesc} (hw : FieldsWf reg) {fs : List (FieldDesc × Word16)}
    (hfs : ∀ x ∈ fs, FitsRegister reg x) : resolveSettings reg (fs.map settingOf) = .ok fs := by
  induction fs with
  | nil => rfl
  | cons x xs ih =>
    obtain ⟨⟨hmem, hfit⟩, hxs⟩ := List.forall_mem_cons.1 hfs
    simp only [List.map_cons, resolveSettings, settingOf, findField_of_mem hw.names hmem, ih hxs,
      if_neg (not_le.2 hfit)]
    rfl

theorem writeRegister_of_answered {a : Byte} {reg : RegDesc} {s : State} (hr : findReg s.cfg.regmap a = some reg)
    (ha : s.device.hangs = false) (p : Payload) :
    writeRegister a p s = .next (s.afterTransaction .write (writeCommand a p reg.wireOrder)) := by
  rw [writeRegister, withReg_some hr, takeFrame_encWr, transact_of_answered ha]

/-- On a well-formed map a field-level write that answers is one write transaction of the assembled payload, as
assembling the settings it resolved does not fail (R64, R65). -/
theorem writeFields_eq_next_of_wf {a : Byte} {xs : List Setting} {s t : State} (hm : RegmapWf s.cfg.regmap)
    (h : writeFields a xs s = .next t) :
    ∃ reg fs p, findReg s.cfg.regmap a = some reg ∧ resolveSettings reg xs = .ok fs ∧
      assemble s.cfg.unsetDefault reg fs = .ok p ∧
      t = s.afterTransaction .write (writeCommand a p reg.wireOrder) := by
  obtain ⟨reg, fs, hr, -, hres, ⟨e, he, -⟩ | ⟨p, hp, hwrite⟩⟩ := writeFields_eq_next h
  · have hok := (fieldsWf_of_findReg hm hr).assemble_eq s.cfg.unsetDefault (resolveSettings_ok hres)
    cases he.symm.trans hok
  · obtain ⟨reg', hr', -, rfl⟩ := writeRegister_eq_next hwrite
    cases hr.symm.trans hr'
    exact ⟨reg, fs, p, hr, hres, hp, rfl⟩

/-- A field-level write of settings that fit a ReadWrite register is one write of the assembled payload (R64, R71). -/
theorem hostCall_writeFields_of_fits {a : Byte} {reg : RegDesc} {fs : List (FieldDesc × Word16)} {s : State}
    {p : Payload} (hl : isLive s = true) (ha : s.device.hangs = false) (hw : FieldsWf reg)
    (hr : findReg s.cfg.regmap a = some reg) (hacc : reg.access = .readWrite) (hfs : ∀ x ∈ fs, FitsRegister reg x)
    (hp : assemble s.cfg.unsetDefault reg fs = .ok p) :
    hostCall (.writeFields a (fs.map settingOf)) s =
      .next (s.afterTransaction .write (writeCommand a p reg.wireOrder)) := by
  rw [hostCall, requireLive_live hl, writeFields, withReg_some hr]
  simp only [hacc, hw.resolveSettings_eq hfs, hp, writeRegister_of_answered hr ha]

/-! ### The example map (R20, R71) -/

/-- The field `powerdown` of the control register (R20). -/
def powerdownField : FieldDesc := ⟨"powerdown", 0, 0, .bool⟩

theorem exampleRegmap_wf (o : WireOrder) : RegmapWf (exampleRegmap o) := by
  cases o <;> decide

theorem powerdown_fits (o : WireOrder) : ∀ x ∈ [(powerdownField, (1 : Word16))], FitsRegister (controlRegister o) x := by
  intro x hx
  obtain rfl := List.mem_singleton.1 hx
  exact ⟨by simp [controlRegister, powerdownField], by decide⟩

/-- R71's example: 0x4071 in the register's storage order. -/
theorem assemble_powerdown (o : WireOrder) :
    assemble .resetValue (controlRegister o) [(powerdownField, 1)] = .ok ⟨0x71, 0x40⟩ := by
  cases o <;> decide

/-! ### The obligations -/

/-- Settles O46: the field of the payload just read, as a bool or as a number. -/
theorem readFieldGivesTheFieldOfThePayload : Obligations.ReadFieldGivesTheFieldOfThePayload := by
  intro a n reg f s hl hm hr hn ha
  have hw := fieldsWf_of_findReg hm hr
  have hmem := (findField_some hn).1
  have hf := hw.range f hmem
  obtain ⟨t, ht, hsame, hlog, hres⟩ := readNamedField_of_answered hr hn hf ha
  refine ⟨t, (requireLive_live hl _ _).trans ht, hsame, ?_⟩
  rw [or_direction_eq_readByte0]
  obtain ⟨r, hx, hres⟩ | ⟨x, hx, hres⟩ := hres
  · refine .inl ⟨r, responsePayload r reg.wireOrder, by rw [hlog, hx]; rfl, fun h => by rw [h]; rfl,
      fun h => by rw [h]; rfl, fun hk => ?_, fun hk => ?_⟩
    · rw [hres, fieldOfResponse, fieldResult_bool hk (hw.kind f hmem) hf, value_toNat]
    · rw [hres, fieldOfResponse, fieldResult_unsigned hk hf, value_toNat]
  · exact .inr ⟨x, by rw [hlog, hx]; rfl, hres⟩

/-- Settles O50: the frame is made of the register, the settings and the default of unset fields, all of which are the
configuration's or the call's. -/
theorem fieldWritesReadNothing : Obligations.FieldWritesReadNothing := by
  intro a xs s s' t t' hm hcfg ht ht'
  obtain ⟨reg, fs, p, hr, hres, hp, rfl⟩ := writeFields_eq_next_of_wf hm (requireLive_eq_next ht).2
  obtain ⟨reg', fs', p', hr', hres', hp', rfl⟩ := writeFields_eq_next_of_wf (hcfg ▸ hm) (requireLive_eq_next ht').2
  rw [hcfg] at hr' hp'
  cases hr.symm.trans hr'
  cases hres.symm.trans hres'
  cases hp.symm.trans hp'
  exact ⟨_, _, _, rfl, rfl⟩

/-- Settles O54: settings that fit resolve and assemble, and what is left is one register write; R71's example is such a
write. -/
theorem fieldWritesSendTheAssembledPayload : Obligations.FieldWritesSendTheAssembledPayload := by
  refine ⟨fun a reg fs s hm hl hr hacc ha hfs => ?_, fun o s hcfg hl ha => ?_⟩
  · have hw := fieldsWf_of_findReg hm hr
    have hp := hw.assemble_eq s.cfg.unsetDefault hfs
    refine ⟨_, _, _, hostCall_writeFields_of_fits hl ha hw hr hacc hfs hp, hp, isOneWrite_afterTransaction s _, rfl,
      fun h => ?_, fun h => ?_⟩
    · rw [h]
      exact ⟨rfl, rfl⟩
    · rw [h]
      exact ⟨rfl, rfl⟩
  · have hr : findReg s.cfg.regmap 0 = some (controlRegister o) := by rw [hcfg]; rfl
    have hp : assemble s.cfg.unsetDefault (controlRegister o) [(powerdownField, 1)] = .ok ⟨0x71, 0x40⟩ := by
      rw [hcfg]
      exact assemble_powerdown o
    have hw := fieldsWf_of_findReg (hcfg ▸ exampleRegmap_wf o) hr
    refine ⟨_, _, hostCall_writeFields_of_fits hl ha hw hr rfl (powerdown_fits o) hp,
      isOneWrite_afterTransaction s _, ?_, ?_⟩
    · rintro rfl
      rfl
    · rintro rfl
      rfl

end Sys2Proof.Machine
end

section
/-! PROOFS. The host's lifecycle and its register access (45_register_access.md R67 to R74): what a host not Live
may do, raw writes and register reads that are answered, the refusals of a field-level write, and the reset pulse. -/

namespace Sys2Proof.Machine

/-! ### The lifecycle (R67 to R69) -/

theorem hostNew_of_ne_destroyed {s : State} (h : s.lifecycle ≠ .destroyed) (a b : Nat) :
    hostNew a b s = .next { s.finish .ok with lifecycle := .live a b } := by
  unfold hostNew
  split
  · rename_i hd
    exact absurd hd h
  · rfl
  · rfl

theorem hostNew_of_destroyed {s : State} (h : s.lifecycle = .destroyed) (a b : Nat) :
    hostNew a b s = .refused (.notLive (.new a b)) := by
  simp only [hostNew, h]

theorem hostDestroy_of_live {s : State} {a b : Nat} (h : s.lifecycle = .live a b) :
    hostDestroy s = .next { s.finish (.handles a b) with lifecycle := .destroyed } := by
  simp only [hostDestroy, h]

theorem hostDestroy_not_live {s : State} (h : isLive s = false) : hostDestroy s = .refused (.notLive .destroy) := by
  cases hs : s.lifecycle with
  | noHandle => simp only [hostDestroy, hs]
  | live a b => simp [isLive, hs] at h
  | destroyed => simp only [hostDestroy, hs]

/-- Every operation but `NEW` asks for a Live host (R69). -/
theorem hostCall_not_live {c : HostCall} {s : State} (hc : needsLive c = true) (h : isLive s = false) :
    hostCall c s = .refused (.notLive c) := by
  cases c with
  | new a b => cases hc
  | destroy => exact hostDestroy_not_live h
  | writeRaw a p => exact requireLive_not h _ _
  | writeFields a xs => exact requireLive_not h _ _
  | readReg a => exact requireLive_not h _ _
  | readField a n => exact requireLive_not h _ _
  | reset => exact requireLive_not h _ _
  | readTemp => exact requireLive_not h _ _
  | xwrite f => exact requireLive_not h _ _
  | xfer f => exact requireLive_not h _ _

theorem isLive_of_destroyed {s : State} (h : s.lifecycle = .destroyed) : isLive s = false := by
  simp only [isLive, h]

/-- All a step of a host that is not Live can do: it issues no transaction, as that takes the handle, and out of
`Destroyed` it finds no way, as `NEW` is refused there (R69). -/
theorem step_not_live {s t : State} (hl : isLive s = false) (h : step s = .next t) :
    t.log = s.log ∧ (s.lifecycle = .destroyed → t.lifecycle = .destroyed) := by
  have hn : isLive s ≠ true := ne_true_of_eq_false hl
  obtain ⟨-, ⟨a, -, hr⟩ | ⟨-, ⟨-, rfl⟩ | ⟨e, rest, i, -, -, hx⟩ | ⟨c, rest, -, hc⟩⟩⟩ := step_cases h
  · exact absurd (resumeCall_run hr).1 hn
  · exact ⟨rfl, id⟩
  · obtain ⟨-, o, -, rfl⟩ | ⟨hlive, -⟩ | ⟨r, rfl⟩ := exec_cases hx
    · exact ⟨rfl, id⟩
    · exact absurd hlive hn
    · exact ⟨rfl, id⟩
  · obtain ⟨a, b, -, hd, rfl⟩ | ⟨a, b, -, -, rfl⟩ | ⟨hlive, -⟩ := hostCall_cases hc
    · exact ⟨rfl, fun hs => absurd hs hd⟩
    · exact ⟨rfl, fun _ => rfl⟩
    · exact absurd hlive hn

/-! ### Accesses that are refused (R70 to R73) -/

theorem withReg_none {a : Byte} {s : State} (h : findReg s.cfg.regmap a = none) (k : RegDesc → Result) :
    withReg a s k = .refused (.unknownAddress a) := by
  simp only [withReg, h]

/-- A field-level write to a ReadOnly register is refused before its settings are looked at (R71, R85). -/
theorem writeFields_of_readOnly {a : Byte} {reg : RegDesc} {s : State} (hr : findReg s.cfg.regmap a = some reg)
    (hacc : reg.access = .readOnly) (xs : List Setting) : writeFields a xs s = .refused (.readOnlyWrite a) := by
  rw [writeFields, withReg_some hr]
  simp only [hacc]

theorem writeFields_of_refused {a : Byte} {reg : RegDesc} {s : State} {xs : List Setting} {e : Refusal}
    (hr : findReg s.cfg.regmap a = some reg) (hacc : reg.access = .readWrite)
    (he : resolveSettings reg xs = .error e) : writeFields a xs s = .refused e := by
  rw [writeFields, withReg_some hr]
  simp only [hacc, he]

/-- One setting of a field that exists, before settings none of which has an unknown name: it is too wide or it is put
in front (R71). -/
theorem resolveSettings_cons {reg : RegDesc} {x : Setting} {xs : List Setting} {f : FieldDesc}
    (hf : findField reg.fields x.field = some f)
    (hxs : ∀ a n, resolveSettings reg xs ≠ .error (.unknownField a n)) :
    resolveSettings reg (x :: xs) =
      if 2 ^ fieldWidth f ≤ x.value.toNat then .error (.fieldValueTooWide x.field x.value)
      else (resolveSettings reg xs).map ((f, x.value) :: ·) := by
  rw [resolveSettings, hf]
  split
  · rename_i h
    cases h
  · rename_i h
    exact absurd h (hxs _ _)
  · rename_i h _
    cases h
    rfl

/-- Settings whose names all exist are not refused for a name (log entry 12). -/
theorem resolveSettings_ne_unknownField {reg : RegDesc} {xs : List Setting}
    (h : ∀ x ∈ xs, (findField reg.fields x.field).isSome = true) :
    ∀ a n, resolveSettings reg xs ≠ .error (.unknownField a n) := by
  induction xs with
  | nil => simp [resolveSettings]
  | cons x xs ih =>
    obtain ⟨hx, hxs⟩ := List.forall_mem_cons.1 h
    obtain ⟨f, hf⟩ := Option.isSome_iff_exists.1 hx
    intro a n
    rw [resolveSettings_cons hf (ih hxs)]
    split
    · simp
    · cases hr : resolveSettings reg xs with
      | ok fs => simp [Except.map]
      | error e =>
        intro he
        exact ih hxs a n (by simpa [Except.map, hr] using he)

/-- Settings whose names all exist, one of them too wide for its field, are refused as too wide (R71, R79). -/
theorem resolveSettings_tooWide {reg : RegDesc} {xs : List Setting}
    (h : ∀ x ∈ xs, (findField reg.fields x.field).isSome = true)
    (hw : ∃ x ∈ xs, ∃ f, findField reg.fields x.field = some f ∧ 2 ^ fieldWidth f ≤ x.value.toNat) :
    ∃ n v, resolveSettings reg xs = .error (.fieldValueTooWide n v) := by
  induction xs with
  | nil => simp at hw
  | cons x xs ih =>
    obtain ⟨hx, hxs⟩ := List.forall_mem_cons.1 h
    obtain ⟨f, hf⟩ := Option.isSome_iff_exists.1 hx
    rw [resolveSettings_cons hf (resolveSettings_ne_unknownField hxs)]
    split
    · exact ⟨_, _, rfl⟩
    · rename_i hfits
      obtain ⟨y, hy, g, hg, hwide⟩ := hw
      obtain rfl | hy := List.mem_cons.1 hy
      · cases hf.symm.trans hg
        exact absurd hwide hfits
      · obtain ⟨n, v, he⟩ := ih hxs ⟨y, hy, g, hg, hwide⟩
        exact ⟨n, v, by rw [he]; rfl⟩

/-! ### The reset pulse (R74) -/

/-- A field-level write of settings that fit a ReadWrite register is the write of the assembled payload, answered or not
(R64, R71). -/
theorem writeFields_of_fits {a : Byte} {reg : RegDesc} {fs : List (FieldDesc × Word16)} {s : State} {p : Payload}
    (hw : FieldsWf reg) (hr : findReg s.cfg.regmap a = some reg) (hacc : reg.access = .readWrite)
    (hfs : ∀ x ∈ fs, FitsRegister reg x) (hp : assemble s.cfg.unsetDefault reg fs = .ok p) :
    writeFields a (fs.map settingOf) s = transact .write (writeCommand a p reg.wireOrder) s := by
  rw [writeFields, withReg_some hr]
  simp only [hacc, hw.resolveSettings_eq hfs, hp]
  rw [writeRegister, withReg_some hr, takeFrame_encWr]

/-- The settings of one write of the pulse, by the control register's fields (R20, R74). -/
def pulseFields (b : Word16) : List (FieldDesc × Word16) :=
  [(⟨"reset", 1, 1, .bool⟩, b), (⟨"foo", 6, 6, .bool⟩, 0), (⟨"bar", 4, 4, .bool⟩, 0)]

theorem pulseFields_settings (b : Word16) : (pulseFields b).map settingOf = pulseSettings b := rfl

theorem pulseFields_fit (o : WireOrder) {b : Word16} (hb : b.toNat < 2) :
    ∀ x ∈ pulseFields b, FitsRegister (controlRegister o) x := by
  simp [pulseFields, FitsRegister, controlRegister, fieldWidth, hb]

/-- The first write of the pulse is of 0x4022 under either default of unset fields (R74, D32). -/
theorem assemble_pulse_assert (o : WireOrder) (d : UnsetDefault) :
    assemble d (controlRegister o) (pulseFields 1) = .ok ⟨0x22, 0x40⟩ := by
  cases o <;> cases d <;> decide

/-- The second write of the pulse is of 0x4020 under either default of unset fields (R74, D32). -/
theorem assemble_pulse_release (o : WireOrder) (d : UnsetDefault) :
    assemble d (controlRegister o) (pulseFields 0) = .ok ⟨0x20, 0x40⟩ := by
  cases o <;> cases d <;> decide

/-- A write to register 0 puts the payload's bytes after address 0 in the wire order of D8. -/
theorem writeCommand_control (o : WireOrder) (p0 p1 : Byte) :
    (o = .swapped → writeCommand 0 ⟨p0, p1⟩ o = ⟨0x00, p1, p0⟩) ∧
    (o = .direct → writeCommand 0 ⟨p0, p1⟩ o = ⟨0x00, p0, p1⟩) := by
  cases o with
  | direct => exact ⟨nofun, fun _ => rfl⟩
  | swapped => exact ⟨fun _ => rfl, nofun⟩

/-- The state a presented host operation starts from, with `rest` to be presented after it. -/
def State.takeHead (s : State) (rest : List Presented) : State := { s with todo := rest, out := .undriven }

/-- The state an operation under way is taken up in. -/
def State.takenUp (s : State) : State := { s with active := none, out := .undriven }

/-- `RESET` after its first write was sent from `s`: the second is to come, with no result yet (log entry 18). -/
def resetUnderWay (s : State) (o : WireOrder) : State :=
  { s.afterTransaction .write (writeCommand 0 ⟨0x22, 0x40⟩ o) with active := some .resetSecondWrite, result := none }

section
variable {o : WireOrder} {d : UnsetDefault} {s : State} (hcfg : s.cfg = { exampleConfig o with unsetDefault := d })
  (hl : isLive s = true)
include hcfg

theorem regmapWf_of_example : RegmapWf s.cfg.regmap := hcfg ▸ exampleRegmap_wf o

/-- On the example map a write of the pulse is one write transaction to register 0 (R74). -/
theorem writePulse_eq {b : Word16} {p : Payload} (hb : b.toNat < 2)
    (hp : assemble d (controlRegister o) (pulseFields b) = .ok p) :
    writeFields s.cfg.controlAddr (pulseSettings b) s = transact .write (writeCommand 0 p o) s := by
  have hr : findReg s.cfg.regmap 0 = some (controlRegister o) := by rw [hcfg]; rfl
  have ha : s.cfg.controlAddr = 0 := by rw [hcfg]; rfl
  rw [← pulseFields_settings, ha]
  exact writeFields_of_fits (fieldsWf_of_findReg (regmapWf_of_example hcfg) hr) hr rfl (pulseFields_fit o hb)
    (by rw [hcfg]; exact hp)

/-- `RESET` taken up: the first write ends it if it failed, and else leaves it under way without a result (R74, R86). -/
theorem hostReset_of_answered (ha : s.device.hangs = false) :
    (∃ x, s.answer .write (writeCommand 0 ⟨0x22, 0x40⟩ o) = .failed x ∧
      hostReset s = .next (s.afterTransaction .write (writeCommand 0 ⟨0x22, 0x40⟩ o))) ∨
    (s.answer .write (writeCommand 0 ⟨0x22, 0x40⟩ o) = .sent ∧
      hostReset s = .next (resetUnderWay s o)) := by
  rw [hostReset, writePulse_eq hcfg (by decide) (assemble_pulse_assert o d), transact_of_answered ha, unlessFailed,
    andThen_next, afterTransaction_result]
  obtain h | ⟨x, h⟩ := answer_write_cases s (writeCommand 0 ⟨0x22, 0x40⟩ o)
  · exact .inr ⟨h, by rw [h]; rfl⟩
  · exact .inl ⟨x, h, by rw [h]; rfl⟩

include hl in
/-- The step that takes `RESET` from the head of what is presented (R66). -/
theorem step_reset {rest : List Presented} (hact : s.active = none) (htodo : s.todo = .call .reset :: rest) :
    step s = hostReset (s.takeHead rest) :=
  (stepRunsTheHostOperation.1 .reset rest s (regmapWf_of_example hcfg) hact htodo).trans
    (requireLive_live (s := s.takeHead rest) hl _ _)

include hl in
/-- Going on with `RESET` is its second write (R74). -/
theorem resumeCall_reset : resumeCall .resetSecondWrite s = transact .write (writeCommand 0 ⟨0x20, 0x40⟩ o) s := by
  rw [resumeCall, requireLive_live hl, hostResetEnd, writePulse_eq hcfg (by decide) (assemble_pulse_release o d)]

include hl in
/-- The step that goes on with `RESET` is its second write, if that is ever answered (R74, R90, R106). -/
theorem step_resetSecondWrite (hact : s.active = some .resetSecondWrite) :
    (s.device.hangs = true → step s = .fault (.transportStuck .write (writeCommand 0 ⟨0x20, 0x40⟩ o))) ∧
    (s.device.hangs = false → ∃ u, step s = .next u ∧
      isOneWrite s.takenUp u (writeCommand 0 ⟨0x20, 0x40⟩ o)) := by
  have hstep : step s = transact .write (writeCommand 0 ⟨0x20, 0x40⟩ o) s.takenUp := by
    rw [step_of_regmapWf (regmapWf_of_example hcfg), runNext_of_active hact]
    exact resumeCall_reset (s := s.takenUp) hcfg hl
  rw [hstep]
  exact ⟨fun hh => transact_of_stuck (s := s.takenUp) hh _ _,
    fun hh => ⟨_, transact_of_answered (s := s.takenUp) hh _ _, isOneWrite_afterTransaction s.takenUp _⟩⟩

end

/-! ### The obligations -/

/-- Settles O35: a destroyed host is not Live, and no step of such a host leaves `Destroyed`. -/
theorem destroyedIsFinal : Obligations.DestroyedIsFinal :=
  fun _ _ hd h => (step_not_live (isLive_of_destroyed hd) h).2 hd

/-- Settles O37: every operation but `NEW` asks for the handle, and so does every transaction. -/
theorem hostOperationsAreRefusedUnlessLive : Obligations.HostOperationsAreRefusedUnlessLive := by
  refine ⟨fun c s => hostCall_not_live, fun a d e s h => ⟨?_, ?_⟩, fun a b s h => hostNew_of_destroyed h a b,
    fun s t hl h => (step_not_live hl h).1⟩
  · rw [exec_writeFrame]
    exact requireLive_not h _ _
  · rw [exec_readFrame]
    exact requireLive_not h _ _

/-- Settles O44: one write transaction of `ENC_WR`'s frame. -/
theorem writeRawSendsTheRegistersFrame : Obligations.WriteRawSendsTheRegistersFrame := by
  intro a p reg s hl hr ha
  refine ⟨_, _, (requireLive_live hl _ _).trans (writeRegister_of_answered hr ha p), isOneWrite_afterTransaction s _,
    response_afterTransaction_write s _, rfl, fun h => ?_, fun h => ?_⟩
  · rw [h]
    exact ⟨rfl, rfl⟩
  · rw [h]
    exact ⟨rfl, rfl⟩

/-- Settles O45: one transfer of `ENC_RD`'s frame, and `DEC_RD` of the response if there is one. -/
theorem readRegDecodesTheResponse : Obligations.ReadRegDecodesTheResponse := by
  intro a reg s hl hr ha
  rw [or_direction_eq_readByte0]
  have hsame := sameHost_afterTransaction s .transfer (readCommand a)
  obtain ⟨r, hx, hread⟩ | ⟨x, hx, hread⟩ := readRegister_of_answered hr ha
  · refine ⟨_, (requireLive_live hl _ _).trans hread, hsame, .inl ⟨r, _, ?_, rfl, fun h => ?_, fun h => ?_⟩⟩
    · rw [finish_log, afterTransaction_log, hx]
      rfl
    · rw [h]
      rfl
    · rw [h]
      rfl
  · refine ⟨_, (requireLive_live hl _ _).trans hread, hsame, .inr ⟨x, ?_, ?_⟩⟩
    · rw [afterTransaction_log, hx]
      rfl
    · rw [afterTransaction_result, hx]
      rfl

/-- Settles O48: each write of the pulse is one transaction, and the first leaves what the second needs. -/
theorem resetIsTheFixedPulse : Obligations.ResetIsTheFixedPulse := by
  intro o d rest s hcfg hl ha hact htodo
  obtain ⟨hswap₁, hdirect₁⟩ := writeCommand_control o 0x22 0x40
  obtain ⟨hswap₂, hdirect₂⟩ := writeCommand_control o 0x20 0x40
  have hstep := step_reset hcfg hl hact htodo
  obtain ⟨x, hx, hreset⟩ | ⟨hx, hreset⟩ := hostReset_of_answered (s := s.takeHead rest) hcfg ha
  · refine ⟨_, _, _, hstep.trans hreset, fun h => ⟨hswap₁ h, hswap₂ h⟩, fun h => ⟨hdirect₁ h, hdirect₂ h⟩,
      .inl ⟨x, sameHost_afterTransaction (s.takeHead rest) .write _, ?_, ?_⟩⟩
    · rw [afterTransaction_log, hx]
      rfl
    · rw [afterTransaction_result, hx]
      rfl
  · obtain ⟨hstuck, hanswered⟩ := step_resetSecondWrite (s := resetUnderWay (s.takeHead rest) o) hcfg hl rfl
    refine ⟨_, _, _, hstep.trans hreset, fun h => ⟨hswap₁ h, hswap₂ h⟩, fun h => ⟨hdirect₁ h, hdirect₂ h⟩,
      .inr ⟨⟨rfl, rfl, rfl, rfl, rfl⟩, ?_, rfl, rfl, hstuck, hanswered⟩⟩
    rw [← hx]
    rfl

/-- Settles O55: the access is looked at first, then the settings, and the transaction comes after both. -/
theorem fieldWritesAreRefusedBeforeTheBus : Obligations.FieldWritesAreRefusedBeforeTheBus := by
  intro a xs reg s hl hr
  refine ⟨fun hacc => (requireLive_live hl _ _).trans (writeFields_of_readOnly hr hacc xs), fun hacc hnames hwide => ?_⟩
  obtain ⟨n, v, he⟩ := resolveSettings_tooWide hnames hwide
  exact ⟨n, v, (requireLive_live hl _ _).trans (writeFields_of_refused hr hacc he)⟩

/-- Settles O42: `NEW` asks only that the host is not destroyed. -/
theorem newStoresBothHandles : Obligations.NewStoresBothHandles :=
  fun a b _ h => hostNew_of_ne_destroyed h a b

/-- Settles O43: the handles held are given back, and after `NEW` those are the ones it was given. -/
theorem destroyReturnsTheHandles : Obligations.DestroyReturnsTheHandles := by
  intro a b s
  refine ⟨fun h => hostDestroy_of_live h, fun t ht => ?_⟩
  obtain ⟨-, rfl⟩ := hostNew_eq_next ht
  exact hostDestroy_of_live (s := { s.finish .ok with lifecycle := .live a b }) rfl

/-- Settles O56: each of the four accesses looks its address up before anything else. -/
theorem unknownAddressesAreRefused : Obligations.UnknownAddressesAreRefused :=
  fun _ _ _ _ _ hl hr =>
    ⟨(requireLive_live hl _ _).trans (withReg_none hr _), (requireLive_live hl _ _).trans (withReg_none hr _),
      (requireLive_live hl _ _).trans (withReg_none hr _), (requireLive_live hl _ _).trans (withReg_none hr _)⟩

end Sys2Proof.Machine
end

section
/-! PROOFS. The rounding of the temperature's arithmetic and its pattern (45_register_access.md R76, D14): how
far `roundMag` moves a magnitude, the 24-bit form of what it gives, and the sign, exponent and fraction it is encoded with. -/

namespace Sys2Proof.Machine

/-! ### The bits taken off -/

theorem excessBits_le {m j : Nat} (h : m < 2 ^ (24 + j)) : excessBits m ≤ j := by
  by_cases hm : m = 0
  · subst hm
    exact Nat.zero_le j
  · have := (Nat.log2_lt hm).2 h
    unfold excessBits
    omega

/-- A magnitude that has bits beyond 24 has its leading bit where they say. -/
theorem magnitude_of_excess {m k : Nat} (h : excessBits m = k + 1) :
    2 ^ 23 * 2 ^ (k + 1) ≤ m ∧ m < 2 ^ 24 * 2 ^ (k + 1) := by
  have hlog : m.log2 = 23 + (k + 1) := by
    unfold excessBits at h
    omega
  have hm : m ≠ 0 := by
    rintro rfl
    simp at hlog
  rw [← pow_add, ← pow_add]
  obtain ⟨hle, hlt⟩ := (Nat.log2_eq_iff hm).1 hlog
  exact ⟨hle, hlt.trans_eq (congrArg (2 ^ ·) (by omega))⟩

theorem excessBits_eq {m k : Nat} (hle : 2 ^ (23 + k) ≤ m) (hlt : m < 2 ^ (24 + k)) : excessBits m = k := by
  have hm : m ≠ 0 := (Nat.two_pow_pos _).trans_le hle |>.ne'
  have hlog : m.log2 = 23 + k := (Nat.log2_eq_iff hm).2 ⟨hle, hlt.trans_eq (congrArg (2 ^ ·) (by omega))⟩
  unfold excessBits
  omega

/-! ### The rounded magnitude -/

theorem roundMag_of_no_excess {m : Nat} (h : excessBits m = 0) : roundMag m = m := by
  simp [roundMag, h]

/-- Bits that are taken off either vanish or carry into the bit above them. -/
theorem roundMag_of_excess {m k : Nat} (h : excessBits m = k + 1) :
    (roundMag m = (m / 2 ^ (k + 1) + 1) * 2 ^ (k + 1) ∧
      (2 ^ k < m % 2 ^ (k + 1) ∨ m % 2 ^ (k + 1) = 2 ^ k ∧ m / 2 ^ (k + 1) % 2 = 1)) ∨
    (roundMag m = m / 2 ^ (k + 1) * 2 ^ (k + 1) ∧
      ¬ (2 ^ k < m % 2 ^ (k + 1) ∨ m % 2 ^ (k + 1) = 2 ^ k ∧ m / 2 ^ (k + 1) % 2 = 1)) := by
  simp only [roundMag, h, Nat.succ_ne_zero, if_false, Nat.add_sub_cancel, Nat.shiftRight_eq_div_pow, Nat.shiftLeft_eq]
  split
  · rename_i hup
    exact .inl ⟨rfl, hup⟩
  · rename_i hdown
    exact .inr ⟨rfl, hdown⟩

/-- Round to nearest, ties to even (R76): a multiple of the last place, within half of it, even in a tie. -/
theorem roundMag_spec (m : Nat) :
    ∃ q, roundMag m = q * 2 ^ excessBits m ∧ q ≤ 2 ^ 24 ∧ (0 < excessBits m → 2 ^ 23 ≤ q) ∧
      2 * roundMag m ≤ 2 * m + 2 ^ excessBits m ∧ 2 * m ≤ 2 * roundMag m + 2 ^ excessBits m ∧
      (0 < excessBits m → 2 * roundMag m = 2 * m + 2 ^ excessBits m ∨ 2 * m = 2 * roundMag m + 2 ^ excessBits m →
        q % 2 = 0) := by
  cases h : excessBits m with
  | zero =>
    have hm : m < 2 ^ 24 := by
      by_contra hge
      have := (Nat.le_log2 (by omega)).2 (Nat.not_lt.1 hge)
      unfold excessBits at h
      omega
    rw [roundMag_of_no_excess h]
    exact ⟨m, by omega, hm.le, by omega, by omega, by omega, by omega⟩
  | succ k =>
    obtain ⟨hle, hlt⟩ := magnitude_of_excess h
    have hpos := Nat.two_pow_pos (k + 1)
    have hq₁ : 2 ^ 23 ≤ m / 2 ^ (k + 1) := (Nat.le_div_iff_mul_le hpos).2 hle
    have hq₂ : m / 2 ^ (k + 1) < 2 ^ 24 := (Nat.div_lt_iff_lt_mul hpos).2 hlt
    have hdiv : m / 2 ^ (k + 1) * 2 ^ (k + 1) + m % 2 ^ (k + 1) = m := Nat.div_add_mod' m _
    have hrest := Nat.mod_lt m hpos
    have hhalf : 2 ^ (k + 1) = 2 * 2 ^ k := by rw [pow_succ, mul_comm]
    obtain ⟨hr, hup⟩ | ⟨hr, hdown⟩ := roundMag_of_excess h
    · have hcarry : (m / 2 ^ (k + 1) + 1) * 2 ^ (k + 1) = m / 2 ^ (k + 1) * 2 ^ (k + 1) + 2 ^ (k + 1) :=
        Nat.succ_mul _ _
      exact ⟨_, hr, by omega, by omega, by omega, by omega, by omega⟩
    · exact ⟨_, hr, by omega, by omega, by omega, by omega, by omega⟩

/-- Rounding a magnitude below `2 ^ (24 + j)` moves it by at most half of `2 ^ j`. -/
theorem roundMag_near {m j : Nat} (h : m < 2 ^ (24 + j)) :
    2 * roundMag m ≤ 2 * m + 2 ^ j ∧ 2 * m ≤ 2 * roundMag m + 2 ^ j := by
  obtain ⟨q, -, -, -, hup, hdown, -⟩ := roundMag_spec m
  have hj : 2 ^ excessBits m ≤ 2 ^ j := Nat.pow_le_pow_right (by decide) (excessBits_le h)
  exact ⟨hup.trans (by omega), hdown.trans (by omega)⟩

/-- A magnitude of at most 24 significant bits is not moved. -/
theorem roundMag_of_dvd {m : Nat} (h : 2 ^ excessBits m ∣ m) : roundMag m = m := by
  obtain ⟨q, hq, -, -, hup, hdown, -⟩ := roundMag_spec m
  obtain ⟨c, hc⟩ := h
  have hpos := Nat.two_pow_pos (excessBits m)
  have hup' : 2 * q ≤ 2 * c + 1 := by
    refine Nat.le_of_mul_le_mul_right ?_ hpos
    calc 2 * q * 2 ^ excessBits m = 2 * roundMag m := by rw [hq, mul_assoc]
      _ ≤ 2 * m + 2 ^ excessBits m := hup
      _ = (2 * c + 1) * 2 ^ excessBits m := by rw [add_mul, one_mul, mul_assoc, mul_comm c, ← hc]
  have hdown' : 2 * c ≤ 2 * q + 1 := by
    refine Nat.le_of_mul_le_mul_right ?_ hpos
    calc 2 * c * 2 ^ excessBits m = 2 * m := by rw [mul_assoc, mul_comm c, ← hc]
      _ ≤ 2 * roundMag m + 2 ^ excessBits m := hdown
      _ = (2 * q + 1) * 2 ^ excessBits m := by rw [add_mul, one_mul, mul_assoc, ← hq]
  obtain rfl : q = c := by omega
  rw [hq, mul_comm, ← hc]

/-- A rounded magnitude from 2^23 on is 24 bits, the first of them set, and a place. -/
theorem roundMag_normal {m : Nat} (h : 2 ^ 23 ≤ roundMag m) :
    ∃ n j, roundMag m = n * 2 ^ j ∧ 2 ^ 23 ≤ n ∧ n < 2 ^ 24 := by
  obtain ⟨q, hq, hle, hge, -⟩ := roundMag_spec m
  have hge' : 2 ^ 23 ≤ q := by
    obtain h0 | hpos := Nat.eq_zero_or_pos (excessBits m)
    · rw [h0, pow_zero, mul_one] at hq
      exact hq ▸ h
    · exact hge hpos
  obtain hlt | rfl := Nat.lt_or_eq_of_le hle
  · exact ⟨q, _, hq, hge', hlt⟩
  · exact ⟨2 ^ 23, excessBits m + 1, by rw [hq, pow_succ' 2 (excessBits m)]; omega, le_rfl, by decide⟩

/-! ### The 32-bit pattern -/

/-- Sign, exponent and fraction side by side (R76). -/
def floatPattern (neg : Bool) (e : BitVec 8) (f : BitVec 23) : BitVec 32 := BitVec.ofBool neg ++ e ++ f

theorem floatPattern_sign (neg : Bool) (e : BitVec 8) (f : BitVec 23) : (floatPattern neg e f).getLsbD 31 = neg := by
  rw [floatPattern, BitVec.getLsbD_append, BitVec.getLsbD_append]
  simp

theorem floatPattern_toNat (neg : Bool) (e : BitVec 8) (f : BitVec 23) :
    (floatPattern neg e f).toNat = (neg.toNat * 2 ^ 8 + e.toNat) * 2 ^ 23 + f.toNat := by
  refine (BitVec.toNat_append _ f).trans ?_
  rw [← Nat.shiftLeft_add_eq_or_of_lt f.isLt, BitVec.toNat_append, ← Nat.shiftLeft_add_eq_or_of_lt e.isLt,
    BitVec.toNat_ofBool, Nat.shiftLeft_eq, Nat.shiftLeft_eq]

theorem floatPattern_fraction (neg : Bool) (e : BitVec 8) (f : BitVec 23) :
    (floatPattern neg e f).toNat % 2 ^ 23 = f.toNat := by
  rw [floatPattern_toNat, Nat.mul_add_mod_self_right, Nat.mod_eq_of_lt f.isLt]

theorem floatPattern_exponent (neg : Bool) (e : BitVec 8) (f : BitVec 23) :
    (floatPattern neg e f).toNat / 2 ^ 23 % 256 = e.toNat := by
  have := f.isLt
  have := e.isLt
  rw [floatPattern_toNat]
  omega

theorem encode32_inf (neg : Bool) : encode32 (.inf neg) = floatPattern neg 0xFF 0 := rfl

theorem encode32_subnormal {mag : Nat} (h : mag < 2 ^ 23) (neg : Bool) :
    encode32 (.fin neg mag) = floatPattern neg 0 (BitVec.ofNat 23 mag) := by
  rw [encode32, if_pos h]
  rfl

/-- The exponent counts the place, and the fraction leaves the first of the 24 bits out. -/
theorem encode32_normal {n j : Nat} (hge : 2 ^ 23 ≤ n) (hlt : n < 2 ^ 24) (neg : Bool) :
    encode32 (.fin neg (n * 2 ^ j)) = floatPattern neg (BitVec.ofNat 8 (j + 1)) (BitVec.ofNat 23 n) := by
  have hpos := Nat.two_pow_pos j
  have hn : 2 ^ 23 ≤ n * 2 ^ j := hge.trans (Nat.le_mul_of_pos_right n hpos)
  have hlog : (n * 2 ^ j).log2 = 23 + j := by
    refine (Nat.log2_eq_iff (by omega)).2 ⟨?_, ?_⟩
    · rw [pow_add]
      exact Nat.mul_le_mul_right _ hge
    · rw [show 23 + j + 1 = 24 + j by omega, pow_add]
      exact Nat.mul_lt_mul_of_pos_right hlt hpos
  rw [encode32, if_neg (Nat.not_lt.2 hn)]
  simp only [hlog, Nat.add_sub_cancel_left, Nat.shiftRight_eq_div_pow, Nat.mul_div_cancel _ hpos]
  rfl

theorem patternIsInf_inf (neg : Bool) : patternIsInf (encode32 (.inf neg)) neg := by
  rw [encode32_inf]
  exact ⟨floatPattern_sign _ _ _, floatPattern_exponent _ _ _, floatPattern_fraction _ _ _⟩

theorem patternIs_subnormal {mag : Nat} (h : mag < 2 ^ 23) (neg : Bool) :
    patternIs (encode32 (.fin neg mag)) neg mag := by
  rw [encode32_subnormal h]
  refine ⟨floatPattern_sign _ _ _, .inl ⟨floatPattern_exponent _ _ _, ?_⟩⟩
  rw [floatPattern_fraction, BitVec.toNat_ofNat, Nat.mod_eq_of_lt h]

theorem patternIs_normal {n j : Nat} (hge : 2 ^ 23 ≤ n) (hlt : n < 2 ^ 24) (hj : j ≤ 253) (neg : Bool) :
    patternIs (encode32 (.fin neg (n * 2 ^ j))) neg (n * 2 ^ j) := by
  have he : (BitVec.ofNat 8 (j + 1)).toNat = j + 1 := by
    rw [BitVec.toNat_ofNat]
    omega
  have hf : 2 ^ 23 + (BitVec.ofNat 23 n).toNat = n := by
    rw [BitVec.toNat_ofNat]
    omega
  rw [encode32_normal hge hlt]
  refine ⟨floatPattern_sign _ _ _, .inr ?_⟩
  rw [floatPattern_exponent, floatPattern_fraction, he, hf, Nat.add_sub_cancel]
  exact ⟨by omega, by omega, rfl⟩

/-- The exponent of a magnitude below 2^128 fits its eight bits. -/
theorem place_le_of_lt {n j : Nat} (hge : 2 ^ 23 ≤ n) (h : n * 2 ^ j < 2 ^ 128 * 2 ^ 149) : j ≤ 253 := by
  have hlt : 2 ^ (23 + j) < 2 ^ (128 + 149) := by
    rw [pow_add, pow_add 2 128 149]
    exact (Nat.mul_le_mul_right _ hge).trans_lt h
  have := (Nat.pow_lt_pow_iff_right (by decide)).1 hlt
  omega

/-- A rounded magnitude below 2^128 is encoded with its sign, and its own exponent and fraction (R76). -/
theorem patternIs_roundMag {m : Nat} (h : roundMag m < 2 ^ 128 * 2 ^ 149) (neg : Bool) :
    patternIs (encode32 (.fin neg (roundMag m))) neg (roundMag m) := by
  obtain hsub | hnormal := Nat.lt_or_ge (roundMag m) (2 ^ 23)
  · exact patternIs_subnormal hsub neg
  · obtain ⟨n, j, hm, hge, hlt⟩ := roundMag_normal hnormal
    rw [hm] at h ⊢
    exact patternIs_normal hge hlt (place_le_of_lt hge h) neg

theorem round32_of_lt {m : Nat} (h : roundMag m < 2 ^ 128 * 2 ^ 149) (neg : Bool) :
    round32 neg m = .fin neg (roundMag m) := if_pos h

theorem round32_of_ge {m : Nat} (h : 2 ^ 128 * 2 ^ 149 ≤ roundMag m) (neg : Bool) : round32 neg m = .inf neg :=
  if_neg (Nat.not_lt.2 h)

/-! ### The obligation -/

/-- Settles O60: the nearest multiple of the last place, and the pattern of its 24-bit form. -/
theorem roundingIsToNearestEven : Obligations.RoundingIsToNearestEven := by
  refine fun m => ⟨roundMag_spec m, fun neg => ⟨fun h => ?_, fun h => ?_⟩⟩
  · rw [round32_of_lt h]
    exact patternIs_roundMag h neg
  · rw [round32_of_ge h]
    exact patternIsInf_inf neg

end Sys2Proof.Machine
end

section
/-! PROOFS. The temperature (45_register_access.md R75, R76, D14): the product and the difference of R76 with their
roundings, how far the result is from the exact value, and `RDTEMP`. -/

namespace Sys2Proof.Machine

/-! ### The constants -/

theorem finiteMag_tempSlope : finiteMag tempSlope = 14260634 * 2 ^ 125 := rfl

theorem finiteMag_tempOffset : finiteMag tempOffset = 415 * 2 ^ 149 := rfl

/-! ### Signed magnitudes -/

/-- The number of a sign and a magnitude, in steps of 2^-149. -/
def signedNumber (neg : Bool) (mag : Nat) : Int := if neg then -(mag : Int) else mag

theorem signedMag_fin (neg : Bool) (mag : Nat) : signedMag (.fin neg mag) = some (signedNumber neg mag) := rfl

/-- The difference of two positive numbers: the sign says which is the larger, and equal ones give +0 (R76). -/
theorem exactSub_cases (x y : Nat) :
    (y < x ∧ exactSub false x false y = (false, x - y)) ∨ (x < y ∧ exactSub false x false y = (true, y - x)) ∨
    (x = y ∧ exactSub false x false y = (false, 0)) := by
  obtain h | h | h := Nat.lt_trichotomy x y
  · exact .inr (.inl ⟨h, by simp [exactSub, h, h.le]⟩)
  · exact .inr (.inr ⟨h, by simp [exactSub, h]⟩)
  · exact .inl ⟨h, by simp [exactSub, h]⟩

/-- The difference is exact before it is rounded. -/
theorem exactSub_number (x y : Nat) :
    signedNumber (exactSub false x false y).1 (exactSub false x false y).2 = (x : Int) - y := by
  obtain ⟨h, he⟩ | ⟨h, he⟩ | ⟨h, he⟩ := exactSub_cases x y
  · simp [he, signedNumber, h.le]
  · simp [he, signedNumber, h.le]
  · rw [he, h, sub_self]
    rfl

theorem exactSub_mag (x y : Nat) : (exactSub false x false y).2 = x - y + (y - x) := by
  obtain ⟨h, he⟩ | ⟨h, he⟩ | ⟨h, he⟩ := exactSub_cases x y
  · simp [he, h.le]
  · simp [he, h.le]
  · rw [he, h, Nat.sub_self]

/-- Rounding a magnitude moves the number as far as the magnitude. -/
theorem signedNumber_near {m m' j : Nat} (hup : 2 * m' ≤ 2 * m + 2 ^ j) (hdown : 2 * m ≤ 2 * m' + 2 ^ j) (neg : Bool) :
    2 * signedNumber neg m' ≤ 2 * signedNumber neg m + 2 ^ j ∧
      2 * signedNumber neg m ≤ 2 * signedNumber neg m' + 2 ^ j := by
  zify at hup hdown
  cases neg with
  | false => exact ⟨hup, hdown⟩
  | true =>
    simp only [signedNumber, if_true]
    omega

/-! ### The product and the difference -/

/-- The rounded product of R76. -/
def tempProduct (raw : Nat) : Nat := roundMag (finiteMag tempSlope * raw)

/-- The difference of R76 before it is rounded, as sign and magnitude. -/
def tempDifference (raw : Nat) : Bool × Nat := exactSub false (tempProduct raw) false (finiteMag tempOffset)

/-- The result of R76 as a number, in steps of 2^-149. -/
def tempNumber (raw : Nat) : Int := signedNumber (tempDifference raw).1 (roundMag (tempDifference raw).2)

theorem tempDifference_number (raw : Nat) :
    signedNumber (tempDifference raw).1 (tempDifference raw).2 = (tempProduct raw : Int) - 415 * 2 ^ 149 :=
  exactSub_number _ _

theorem tempDifference_mag (raw : Nat) :
    (tempDifference raw).2 = tempProduct raw - 415 * 2 ^ 149 + (415 * 2 ^ 149 - tempProduct raw) :=
  exactSub_mag _ _

/-- Magnitudes below 2^160, the number 2048, are far from the infinite. -/
theorem roundMag_lt_of_lt {m : Nat} (h : m < 2 ^ 160) : roundMag m < 2 ^ 128 * 2 ^ 149 := by
  have := (roundMag_near (j := 136) h).1
  omega

section
variable {raw : Nat} (h : raw ≤ 2047)
include h

theorem slope_mul_lt : finiteMag tempSlope * raw < 2 ^ 160 := by
  rw [finiteMag_tempSlope]
  omega

theorem tempProduct_near :
    2 * tempProduct raw ≤ 2 * (finiteMag tempSlope * raw) + 2 ^ 136 ∧
      2 * (finiteMag tempSlope * raw) ≤ 2 * tempProduct raw + 2 ^ 136 :=
  roundMag_near (slope_mul_lt h)

theorem tempDifference_lt : (tempDifference raw).2 < 2 ^ 160 := by
  have hnear := tempProduct_near h
  rw [finiteMag_tempSlope] at hnear
  rw [tempDifference_mag]
  omega

/-- Neither operation of R76 leaves the finite numbers. -/
theorem tempValue_eq :
    tempValue tempSlope tempOffset raw = .fin (tempDifference raw).1 (roundMag (tempDifference raw).2) := by
  have hproduct : mul32 tempSlope raw = .fin false (tempProduct raw) :=
    round32_of_lt (roundMag_lt_of_lt (slope_mul_lt h)) false
  rw [tempValue, hproduct]
  exact round32_of_lt (roundMag_lt_of_lt (tempDifference_lt h)) _

theorem signedMag_tempValue : signedMag (tempValue tempSlope tempOffset raw) = some (tempNumber raw) := by
  rw [tempValue_eq h, signedMag_fin]
  rfl

/-- The pattern of the result is that of its magnitude, so it is finite (R76). -/
theorem patternIs_tempValue :
    ∃ neg mag, tempValue tempSlope tempOffset raw = .fin neg mag ∧
      patternIs (encode32 (tempValue tempSlope tempOffset raw)) neg mag := by
  refine ⟨_, _, tempValue_eq h, ?_⟩
  rw [tempValue_eq h]
  exact patternIs_roundMag (roundMag_lt_of_lt (tempDifference_lt h)) _

/-! ### The distance from the exact value -/

/-- From a product of 1024 on, the difference has no more than the product's 24 bits, so only the product is rounded. -/
theorem tempNumber_of_large (hl : 1205 ≤ raw) : tempNumber raw = (tempProduct raw : Int) - 415 * 2 ^ 149 := by
  have hex : excessBits (finiteMag tempSlope * raw) = 136 :=
    excessBits_eq (by rw [finiteMag_tempSlope]; omega) (slope_mul_lt h)
  obtain ⟨q, hq, -, hge, -⟩ := roundMag_spec (finiteMag tempSlope * raw)
  rw [hex] at hq hge
  have hproduct : tempProduct raw = q * 2 ^ 136 := hq
  have hmag : (tempDifference raw).2 = 2 ^ 136 * (q - 415 * 2 ^ 13) := by
    have := hge (by decide)
    rw [tempDifference_mag, hproduct]
    omega
  have hdvd : 2 ^ excessBits (tempDifference raw).2 ∣ (tempDifference raw).2 :=
    (pow_dvd_pow 2 (excessBits_le (tempDifference_lt h))).trans ⟨_, hmag⟩
  rw [tempNumber, roundMag_of_dvd hdvd, tempDifference_number]

/-- Below a product of 1024 both roundings are within 2^-15. -/
theorem tempNumber_near_of_small (hs : raw ≤ 1204) :
    2 * tempNumber raw ≤ 2 * (14260634 * 2 ^ 125 * raw - 415 * 2 ^ 149) + 2 ^ 136 ∧
      2 * (14260634 * 2 ^ 125 * raw - 415 * 2 ^ 149) ≤ 2 * tempNumber raw + 2 ^ 136 := by
  have hproduct := roundMag_near (m := finiteMag tempSlope * raw) (j := 135) (by rw [finiteMag_tempSlope]; omega)
  rw [← tempProduct, finiteMag_tempSlope] at hproduct
  have hmag : (tempDifference raw).2 < 2 ^ (24 + 135) := by
    rw [tempDifference_mag]
    omega
  obtain ⟨hup, hdown⟩ := roundMag_near hmag
  have hnumber := signedNumber_near hup hdown (tempDifference raw).1
  rw [tempDifference_number, ← tempNumber] at hnumber
  omega

/-- The result is within 2^-14 of R76's value with the constant `C` as it is. -/
theorem tempNumber_near :
    2 * tempNumber raw ≤ 2 * (14260634 * 2 ^ 125 * raw - 415 * 2 ^ 149) + 2 ^ 136 ∧
      2 * (14260634 * 2 ^ 125 * raw - 415 * 2 ^ 149) ≤ 2 * tempNumber raw + 2 ^ 136 := by
  obtain hs | hl := Nat.lt_or_ge raw 1205
  · exact tempNumber_near_of_small h (Nat.le_of_lt_succ hs)
  · have hproduct := tempProduct_near h
    rw [finiteMag_tempSlope] at hproduct
    rw [tempNumber_of_large h hl]
    omega

/-- With the distance of `C` from 17/20 the result is within 2^-13 of the exact value (R76). -/
theorem tempNumber_close :
    20 * tempNumber raw - (17 * (raw : Int) - 8300) * 2 ^ 149 ≤ 20 * 2 ^ 136 ∧
      (17 * (raw : Int) - 8300) * 2 ^ 149 - 20 * tempNumber raw ≤ 20 * 2 ^ 136 := by
  have hnear := tempNumber_near h
  omega

end

/-- One step of the raw value is 0.85, far more than two results can be off (R76). -/
theorem tempNumber_strictMono {a b : Nat} (hab : a < b) (hb : b ≤ 2047) : tempNumber a < tempNumber b := by
  have ha := tempNumber_close (hab.le.trans hb)
  have hb := tempNumber_close hb
  omega

/-! ### `RDTEMP` -/

/-- The state after a register read from `s` that received `r` (R72). -/
def afterRead (s : State) (a : Byte) (reg : RegDesc) (r : Frame) : State :=
  (s.afterTransaction .transfer (readCommand a)).finish (.payload (responsePayload r reg.wireOrder))

/-- Reading a register that is answered, extracting a field and ending with a result made of it: the result of the
response's field, or the transport's error (R73, R75). -/
theorem fieldRead_of_answered {a : Byte} {reg : RegDesc} {f : FieldDesc} {s : State} (g : Word16 → State → HostResult)
    (hr : findReg s.cfg.regmap a = some reg) (hf : f.lo ≤ f.hi ∧ f.hi ≤ 15) (ha : s.device.hangs = false) :
    ∃ t, unlessFailed (readRegister a s) (withField reg f fun v u => .next (u.finish (g v u))) = .next t ∧
      sameHost s t ∧
      ((∃ r, t.log = s.log ++ [⟨.transfer, readCommand a, .received r⟩] ∧
          t.result = some (g (extractField (value (responsePayload r reg.wireOrder) reg.byteOrder)
            (fieldLo f) (fieldHi f)) (afterRead s a reg r))) ∨
       ∃ x, t.log = s.log ++ [⟨.transfer, readCommand a, .failed x⟩] ∧ t.result = some (.transportError x)) := by
  have hsame := sameHost_afterTransaction s .transfer (readCommand a)
  have hlog := afterTransaction_log s .transfer (readCommand a)
  obtain ⟨r, hx, hread⟩ | ⟨x, hx, hread⟩ := readRegister_of_answered hr ha
  · rw [hx] at hlog
    refine ⟨(afterRead s a reg r).finish (g _ _), ?_, hsame, .inl ⟨r, hlog, finish_result _ _⟩⟩
    rw [hread, unlessFailed, andThen_next, finish_result, withField_payload hf rfl]
    rfl
  · have hres := afterTransaction_result s .transfer (readCommand a)
    rw [hx] at hlog hres
    refine ⟨_, ?_, hsame, .inr ⟨x, hlog, hres⟩⟩
    rw [hread, unlessFailed, andThen_next, hres]
    rfl

/-- The field `rb_temp_sens` of the sensor register (R21). -/
def temperatureField : FieldDesc := ⟨"rb_temp_sens", 0, 10, .unsigned⟩

/-- The field is the low 11 bits of the response's big-endian value (R21, R75). -/
theorem temperatureField_toNat (r : Frame) :
    (extractField (value (responsePayload r sensorRegister.wireOrder) sensorRegister.byteOrder)
      (fieldLo temperatureField) (fieldHi temperatureField)).toNat = (r.f1.toNat * 256 + r.f2.toNat) % 2048 := by
  rw [extractField_field_toNat (by decide), value_toNat, bitsNat]
  exact congrArg (· % 2048) (Nat.div_one _)

/-! ### The obligations -/

/-- Settles O57: the field of the response is a raw value below 2048, whose result is finite. -/
theorem rdTempConvertsTheElevenBitField : Obligations.RdTempConvertsTheElevenBitField := by
  intro o s hcfg hl ha
  have hr : findReg s.cfg.regmap 76 = some sensorRegister := by rw [hcfg]; rfl
  have hs : s.cfg.sensorAddr = 76 := by rw [hcfg]; rfl
  have harith : s.cfg.tempArith = .binary32 tempSlope tempOffset := by rw [hcfg]; rfl
  obtain ⟨t, ht, hsame, hend⟩ := fieldRead_of_answered (f := temperatureField)
    (fun v u => .temperature (temp u.cfg.tempArith v)) hr (by decide) ha
  have hcall : hostCall .readTemp s = .next t := by
    rw [hostCall, requireLive_live hl, readTemperature, hs, withNamedField_some hr rfl]
    exact ht
  obtain ⟨r, hlog, hres⟩ | hfailed := hend
  · obtain ⟨neg, mag, hvalue, hpattern⟩ :=
      patternIs_tempValue (raw := (r.f1.toNat * 256 + r.f2.toNat) % 2048) (by omega)
    refine ⟨t, hcall, hsame, .inl ⟨r, _, neg, mag, hlog, hres, hvalue, ?_⟩⟩
    rw [afterRead, finish_cfg, afterTransaction_cfg, harith, temp, temperatureField_toNat]
    exact hpattern
  · exact ⟨t, hcall, hsame, .inr hfailed⟩

/-- Settles O58: the errors of both roundings and of the constant `C` together. -/
theorem temperatureIsCloseToTheExactValue : Obligations.TemperatureIsCloseToTheExactValue :=
  fun _ h => ⟨_, signedMag_tempValue h, tempNumber_close h⟩

/-- Settles O59: the exact values are -0.2 at 488 and 0.65 at 489, so the error decides neither sign nor order. -/
theorem temperatureChangesSignAfter488 : Obligations.TemperatureChangesSignAfter488 := by
  intro raw h
  have hclose := tempNumber_close h
  refine ⟨_, signedMag_tempValue h, fun hlow => by omega, fun hhigh => by omega, fun raw' w hlt hw => ?_⟩
  rw [signedMag_tempValue (hlt.le.trans h)] at hw
  cases hw
  exact tempNumber_strictMono hlt h

end Sys2Proof.Machine
end

section
/-! PROOFS. Exceptions (60_exceptions.md R78 to R90): the errors the block raises, the transport's errors that end a
host operation, the error that no step produces, and the host that is stuck. -/

namespace Sys2Proof.Machine

/-! ### The errors of the bitfield operations (R81, R82, R85) -/

theorem rangeError_of_reversed {lo hi : BitVec 4} (h : hi < lo) : rangeError lo hi = some (.bfRange lo hi) :=
  if_pos h

/-- The range is looked at before the value (R85). -/
theorem insertError_of_reversed {lo hi : BitVec 4} (h : hi < lo) (x : Word16) :
    insertError lo hi x = some (.bfRange lo hi) := by
  rw [insertError, rangeError_of_reversed h]

theorem valueError_of_wide {lo hi : BitVec 4} {x : Word16} (h : 2 ^ rangeWidth lo hi ≤ x.toNat) :
    valueError lo hi x = some (.bfValue x (rangeWidth lo hi)) :=
  if_neg fun hmask => absurd ((valueError_eq_none lo hi x).1 (if_pos hmask)) (Nat.not_lt.2 h)

theorem insertError_of_wide {lo hi : BitVec 4} {x : Word16} (h : lo ≤ hi) (hx : 2 ^ rangeWidth lo hi ≤ x.toNat) :
    insertError lo hi x = some (.bfValue x (rangeWidth lo hi)) := by
  rw [insertError, (rangeError_eq_none lo hi).2 h, valueError_of_wide hx]

theorem exec_bfExt_of_error {lo hi : BitVec 4} {e : BlockErr} (h : rangeError lo hi = some e) (p : Payload)
    (o : ValueOrder) (s : State) : exec (.bfExt p o lo hi) s = .next (s.raise e) := by
  show Host.Outcome.next (s.drive (bfExtOutputs p o lo hi)) = _
  rw [bfExtOutputs, h, raise_eq]

theorem exec_bfIns_of_error {lo hi : BitVec 4} {x : Word16} {e : BlockErr} (h : insertError lo hi x = some e)
    (p : Payload) (o : ValueOrder) (s : State) : exec (.bfIns p o lo hi x) s = .next (s.raise e) := by
  show Host.Outcome.next (s.drive (bfInsOutputs p o lo hi x)) = _
  rw [bfInsOutputs, bfInsPayload, h, raise_eq]

/-! ### The reserved operation codes (R51, R80) -/

theorem decodePorts_101 {q : Ports} (h : q.op = 5) : decodePorts q = .reserved101 := by
  simp [decodePorts, h]

theorem decodePorts_110 {q : Ports} (h : q.op = 6) : decodePorts q = .reserved110 := by
  simp [decodePorts, h]

theorem decodePorts_111 {q : Ports} (h : q.op = 7) : decodePorts q = .reserved111 := by
  simp [decodePorts, h]

theorem reserved_code_cases {op : BitVec 3} (h : 5 ≤ op.toNat) : op = 5 ∨ op = 6 ∨ op = 7 := by
  have := op.isLt
  bv_omega

/-- A reserved code raises `ILLEGAL_OP` with itself, whatever the operand ports hold (R80). -/
theorem exec_reserved {q : Ports} (h : 5 ≤ q.op.toNat) (s : State) :
    exec (decodePorts q) s = .next (s.raise (.illegalOp q.op)) := by
  obtain h | h | h := reserved_code_cases h
  · rw [decodePorts_101 h, h]
    rfl
  · rw [decodePorts_110 h, h]
    rfl
  · rw [decodePorts_111 h, h]
    rfl

/-! ### What no step does (R77, R84) -/

/-- A run records no `DigitalError`, so it ends in one only if it began with one (R84). -/
theorem HostRun.keeps_notDigital {s t : State} (h : HostRun s t) (hs : notDigital s.result = true) :
    notDigital t.result = true := by
  induction h with
  | start => exact hs
  | transaction k f _ _ => exact notDigital_answer _
  | finish _ hr _ => exact hr

/-- From `s` to `t` the level of the enable pin is kept, and no `DigitalError` is produced (R77, R84). -/
def PinUntouched (s t : State) : Prop :=
  t.pinHigh = s.pinHigh ∧ (notDigital s.result = true → notDigital t.result = true)

theorem HostRun.pinUntouched {s t : State} (h : HostRun s t) : PinUntouched s t := by
  obtain ⟨-, -, -, -, hpin⟩ := h.sameHost
  exact ⟨hpin, h.keeps_notDigital⟩

theorem exec_pinUntouched {i : Instr} {s t : State} (h : exec i s = .next t) : PinUntouched s t := by
  obtain ⟨-, o, -, rfl⟩ | ⟨-, k, f, rfl⟩ | ⟨r, rfl⟩ := exec_cases h
  · exact ⟨rfl, id⟩
  · exact (HostRun.start.transaction k f).pinUntouched
  · exact ⟨rfl, id⟩

theorem hostCall_pinUntouched {c : HostCall} {s t : State} (h : hostCall c s = .next t) : PinUntouched s t := by
  obtain ⟨a, b, -, -, rfl⟩ | ⟨a, b, -, -, rfl⟩ | ⟨-, u, hu, rfl | ⟨-, rfl⟩⟩ := hostCall_cases h
  · exact ⟨rfl, fun _ => rfl⟩
  · exact ⟨rfl, fun _ => rfl⟩
  · exact hu.pinUntouched
  · exact ⟨hu.pinUntouched.1, fun _ => rfl⟩

/-! ### A transport that fails (R83, R86) -/

/-- ECHO fails no transaction (D19). -/
theorem device_ne_echo_of_failure {d : Device} {n e : Nat} (h : d.failure n = some e) : d ≠ .echo := by
  rintro rfl
  cases h

section
variable {s t : State} {e : Nat} (he : s.device.failure s.draws = some e)
include he

theorem answer_of_failure (k : TxKind) (f : Frame) : s.answer k f = .failed e := by
  simp only [State.answer, he]

/-- What a transaction that fails leaves: its error, itself in the log, and nothing known of the device (R35, R83,
R86). -/
theorem afterTransaction_of_failure (k : TxKind) (f : Frame) :
    (s.afterTransaction k f).result = some (.transportError e) ∧
    (s.afterTransaction k f).log = s.log ++ [⟨k, f, .failed e⟩] ∧
    ∀ a, memRead (s.afterTransaction k f).mem a = none := by
  refine ⟨?_, ?_, fun a => ?_⟩
  · rw [afterTransaction_result, answer_of_failure he]
    rfl
  · rw [afterTransaction_log, answer_of_failure he]
  · rw [afterTransaction_mem, memAfter_of_ne_echo (device_ne_echo_of_failure he), memRead_nil]

/-- A register read ends with its transfer: no response, nothing to decode (R72). -/
theorem readRegister_of_failure {a : Byte} (h : readRegister a s = .next t) :
    ∃ k f, t = s.afterTransaction k f := by
  obtain ⟨reg, -, -, hd⟩ := readRegister_eq_next h
  have hnone : (s.afterTransaction .transfer (readCommand a)).response = none := by
    rw [afterTransaction_response, answer_of_failure he]
    rfl
  obtain ⟨-, hstop⟩ | ⟨r, hr, -⟩ := deliverPayload_cases reg.wireOrder (s.afterTransaction .transfer (readCommand a))
  · cases hstop.symm.trans hd
    exact ⟨_, _, rfl⟩
  · cases hnone.symm.trans hr

/-- A sequence that begins with one transaction ends with it (R86). -/
theorem unlessFailed_of_failure {r : Result} {more : State → Result}
    (hfirst : ∀ {u}, r = .next u → ∃ k f, u = s.afterTransaction k f) (h : unlessFailed r more = .next t) :
    ∃ k f, t = s.afterTransaction k f := by
  obtain ⟨u, hu, ⟨-, rfl⟩ | ⟨hgo, -⟩⟩ := unlessFailed_eq_next h
  · exact hfirst hu
  · obtain ⟨k, f, rfl⟩ := hfirst hu
    obtain ⟨herror, -⟩ := afterTransaction_of_failure he k f
    rw [herror] at hgo
    cases hgo

end

theorem writeFields_one_transaction {a : Byte} {xs : List Setting} {s t : State} (hm : RegmapWf s.cfg.regmap)
    (h : writeFields a xs s = .next t) : ∃ k f, t = s.afterTransaction k f := by
  obtain ⟨reg, fs, p, -, -, -, ht⟩ := writeFields_eq_next_of_wf hm h
  exact ⟨_, _, ht⟩

/-- Every operation of the host but `NEW` and `DESTROY`, if it answers, is its first transaction and nothing else when
that fails (R83, R86). -/
theorem hostCall_of_failure {c : HostCall} {e : Nat} {s t : State} (hm : RegmapWf s.cfg.regmap)
    (he : s.device.failure s.draws = some e) (hnew : ∀ a b, c ≠ .new a b) (hdestroy : c ≠ .destroy)
    (h : hostCall c s = .next t) : ∃ k f, t = s.afterTransaction k f := by
  cases c with
  | new a b => exact absurd rfl (hnew a b)
  | destroy => exact absurd rfl hdestroy
  | writeRaw a p =>
    obtain ⟨reg, -, -, ht⟩ := writeRegister_eq_next (requireLive_eq_next h).2
    exact ⟨_, _, ht⟩
  | writeFields a xs => exact writeFields_one_transaction hm (requireLive_eq_next h).2
  | readReg a => exact readRegister_of_failure he (requireLive_eq_next h).2
  | readField a n =>
    obtain ⟨reg, f, -, -, hk⟩ := withNamedField_eq_next (requireLive_eq_next h).2
    exact unlessFailed_of_failure he (readRegister_of_failure he) hk
  | reset => exact unlessFailed_of_failure he (writeFields_one_transaction hm) (requireLive_eq_next h).2
  | readTemp =>
    obtain ⟨reg, f, -, -, hk⟩ := withNamedField_eq_next (requireLive_eq_next h).2
    exact unlessFailed_of_failure he (readRegister_of_failure he) hk
  | xwrite f =>
    obtain ⟨-, -, ht⟩ := xwrite_eq_next h
    exact ⟨_, _, ht⟩
  | xfer f =>
    obtain ⟨-, -, ht⟩ := xfer_eq_next h
    exact ⟨_, _, ht⟩

/-! ### The obligations -/

/-- Settles O7: on a legal range a value at or above 2 to the width is the one thing wrong. -/
theorem wideValueRaisesBfValue : Obligations.WideValueRaisesBfValue :=
  fun p o _ _ _ s h hx => ⟨exec_bfIns_of_error (insertError_of_wide h hx) p o s, rfl⟩

/-- Settles O32: going on, idling, an instruction and a host operation each leave the pin and its error alone. -/
theorem noStepDrivesThePin : Obligations.NoStepDrivesThePin := by
  intro s t h
  obtain ⟨-, ⟨a, -, hr⟩ | ⟨-, ⟨-, rfl⟩ | ⟨e, rest, i, -, -, hx⟩ | ⟨c, rest, -, hc⟩⟩⟩ := step_cases h
  · exact (resumeCall_run hr).2.pinUntouched
  · exact ⟨rfl, id⟩
  · exact (exec_pinUntouched hx :)
  · exact (hostCall_pinUntouched hc :)

/-- Settles O49: the operation is its one failed transaction, of which the rest is known. -/
theorem transportErrorEndsTheOperation : Obligations.TransportErrorEndsTheOperation := by
  intro c e s t hm he hnew hdestroy h
  obtain ⟨k, f, rfl⟩ := hostCall_of_failure hm he hnew hdestroy h
  obtain ⟨hresult, hlog, hmem⟩ := afterTransaction_of_failure he k f
  exact ⟨hresult, sameHost_afterTransaction s k f, ⟨k, f, hlog⟩, hmem⟩

/-- Settles O6: both operations look at the range first. -/
theorem reversedRangeRaisesBfRange : Obligations.ReversedRangeRaisesBfRange :=
  fun p o _ _ x s h => ⟨exec_bfExt_of_error (rangeError_of_reversed h) p o s,
    exec_bfIns_of_error (insertError_of_reversed h x) p o s, rfl⟩

/-- Settles O8: of the codes from 5 on each is a reserved one, which raises itself. -/
theorem reservedCodesRaiseIllegalOp : Obligations.ReservedCodesRaiseIllegalOp :=
  fun _ s h => ⟨exec_reserved h s, rfl, decodePorts_101, decodePorts_110, decodePorts_111⟩

/-- Settles O16: either frame of a Live host is a transaction, which is never answered. -/
theorem unansweredTransactionIsStuck : Obligations.UnansweredTransactionIsStuck := by
  intro a d e s hl hh
  rw [exec_writeFrame, exec_readFrame, xwrite, xfer, requireLive_live hl, requireLive_live hl]
  exact ⟨transact_of_stuck hh _ _, transact_of_stuck hh _ _⟩

end Sys2Proof.Machine
end
